-- ==== Sys2Proof/Word.lean ====
section
/-! DEFINITION. The words of the block: 00_scope.md R6 and R9. -/

namespace Sys2Proof

/-- A µ-law code or a byte of the source: u8 (R6, CODE_WIDTH). -/
abbrev Byte := BitVec 8

/-- One linear PCM sample, two's complement: s16 (R6, SAMPLE_WIDTH). -/
abbrev Sample := BitVec 16

/-- A register or a command word: u32 (R6, REG_WIDTH). -/
abbrev Word := BitVec 32

/-- A byte position in the source: u33 (R6, POS_WIDTH). -/
abbrev Pos := BitVec 33

end Sys2Proof
end

