-- ==== Sys2Proof/Syntax.lean ====
section
/-! DEFINITION. What the agents can send the block: command words (30_encoding.md), register accesses
(42_host_access.md R160), source answers (20_memory.md R77), and the assembler lines of R100 and R101. -/

namespace Sys2Proof

/-- The commands of spec/opcode_table.json. The operand types carry the field widths of R92 to R94, so every
term is well formed. -/
inductive Instr where
  /-- LOOKUP CODE (40_lut.md R118). -/
  | lookup (code : Byte)
  /-- DECODE (41_decode.md R130). -/
  | decode
  /-- PCM_READ INDEX (42_host_access.md R164). -/
  | pcmRead (index : BitVec 24)
  deriving DecidableEq, Repr

/-- The result codes of a write to CMD: STATUS.CMD_ERR (60_exceptions.md R186). -/
inductive CmdErr where
  | ok | badOpcode | reservedBits | badState | indexRange
  deriving DecidableEq, Repr

/-- The named registers of the window (10_state.md R22). -/
inductive Reg where
  | cmd | status | dataOffset | dataSize | result | produced | length | capacity
  deriving DecidableEq, Repr

/-- The direction of a host access (R160); a write carries its 32-bit value. -/
inductive Dir where
  | read
  | write (value : Word)
  deriving DecidableEq, Repr

/-- One host access: R160's triple (offset, width, dir). The offset counts bytes from the window's base (R61),
the width is in bits. -/
structure BusAccess where
  offset : Nat
  width : Nat
  dir : Dir
  deriving DecidableEq, Repr

/-- What the source may answer a request with (20_memory.md R77). -/
inductive SourceAnswer where
  | bytes (bs : List Byte)
  | fault
  deriving DecidableEq, Repr

/-- One step of one agent (10_state.md R20), with what that agent sends. -/
inductive Event where
  /-- The host performs a register access. -/
  | host (access : BusAccess)
  /-- The engine takes its step, ENG_ISSUE or ENG_CONVERT, whichever is enabled. -/
  | engine
  /-- The source answers the outstanding request. -/
  | source (answer : SourceAnswer)
  /-- The reset input is asserted. -/
  | reset
  deriving DecidableEq, Repr, Inhabited

/-- A register named in an assembler line (R100): by name, or by a numeric offset written @0xNN. -/
inductive RegRef where
  | named (r : Reg)
  | atOffset (offset : Nat)
  deriving DecidableEq, Repr

/-- The assembler's lines (R100), with their operands as the numbers written. -/
inductive AsmLine where
  | wr (r : RegRef) (imm : Nat)
  | rd (r : RegRef)
  | lookup (code : Nat)
  | decode
  | pcmRead (index : Nat)
  deriving DecidableEq, Repr

/-- The pseudo-instructions (R101). A POLL is a loop of the host: reads counts the RD STATUS it makes. -/
inductive PseudoLine where
  | decodeAt (off n : Nat)
  | poll (reads : Nat)
  | decodeWait (off n reads : Nat)
  | expand (code : Nat)
  | fetch (index : Nat)
  deriving DecidableEq, Repr

end Sys2Proof
end

