-- ==== Sys2Proof/WellFormed.lean ====
section
/-! DEFINITION. The range checks of the assembler (30_encoding.md R100), which refuses an operand outside its
range rather than truncate it. A term of Instr needs no check: its operand types carry the field widths. -/

namespace Sys2Proof

/-- A numeric offset has two hexadecimal digits (R100). -/
def RegRef.wellFormed : RegRef → Bool
  | .named _ => true
  | .atOffset off => decide (off ≤ 0xFF)

/-- The ranges R100 gives: an imm32, a code in 0..255, an index in 0..2^24-1. -/
def AsmLine.wellFormed : AsmLine → Bool
  | .wr r imm => r.wellFormed && decide (imm < 2 ^ 32)
  | .rd r => r.wellFormed
  | .lookup code => decide (code ≤ 255)
  | .decode => true
  | .pcmRead index => decide (index ≤ 2 ^ 24 - 1)

end Sys2Proof
end

