-- ==== Sys2Proof/Decode.lean ====
section
/-! DEFINITION. The command decoder (30_encoding.md R99), the encoder (R92 to R94) and the assembler
(R100, R101). -/

namespace Sys2Proof

/-- The field OPC = w[31:24] (R90). -/
def opcodeOf (w : Word) : BitVec 8 := w.extractLsb' 24 8

/-- The command decoder, total on 32-bit words (R99): the opcode test comes first, then the reserved bits. -/
def decodeCmd (w : Word) : Except CmdErr Instr :=
  if opcodeOf w = 0x01 then
    if w.extractLsb' 8 16 ≠ 0 then .error .reservedBits else .ok (.lookup (w.extractLsb' 0 8))
  else if opcodeOf w = 0x02 then
    if w.extractLsb' 0 24 ≠ 0 then .error .reservedBits else .ok .decode
  else if opcodeOf w = 0x03 then
    .ok (.pcmRead (w.extractLsb' 0 24))
  else
    .error .badOpcode

/-- The command word of an instruction: its row's match value with the operand in its field (R92 to R94). -/
def encode : Instr → Word
  | .lookup code => 0x01000000 ||| code.setWidth 32
  | .decode => 0x02000000
  | .pcmRead index => 0x03000000 ||| index.setWidth 32

/-- The row's match value in spec/opcode_table.json. -/
def matchOf : Instr → Word
  | .lookup _ => 0x01000000
  | .decode => 0x02000000
  | .pcmRead _ => 0x03000000

/-- The row's mask in spec/opcode_table.json. -/
def maskOf : Instr → Word
  | .lookup _ => 0xFFFFFF00
  | .decode => 0xFFFFFFFF
  | .pcmRead _ => 0xFF000000

/-- The command word held in the low nbits bits of w, every bit above them zero. A command is one 32-bit
register value; the block defines no byte lanes for it (20_memory.md R66). -/
def tableWord (nbits w : Nat) : Word := BitVec.ofNat 32 (w % 2 ^ nbits)

/-- The instruction the decoder reads from a word numbered as spec/opcode_table.json numbers it. -/
def decodeTableWord (nbits w : Nat) : Option Instr :=
  match decodeCmd (tableWord nbits w) with
  | .ok i => some i
  | .error _ => none

/-- The byte offset of a named register (10_state.md R22). -/
def Reg.offset : Reg → Nat
  | .cmd => 0x00
  | .status => 0x04
  | .dataOffset => 0x08
  | .dataSize => 0x0C
  | .result => 0x10
  | .produced => 0x14
  | .length => 0x18
  | .capacity => 0x1C

/-- The register at an offset of the window, none where the offset is reserved (10_state.md R22). -/
def regAt (offset : Nat) : Option Reg :=
  if offset = 0x00 then some .cmd
  else if offset = 0x04 then some .status
  else if offset = 0x08 then some .dataOffset
  else if offset = 0x0C then some .dataSize
  else if offset = 0x10 then some .result
  else if offset = 0x14 then some .produced
  else if offset = 0x18 then some .length
  else if offset = 0x1C then some .capacity
  else none

/-- The offset an assembler line names (R100). -/
def RegRef.offset : RegRef → Nat
  | .named r => r.offset
  | .atOffset off => off

/-- A 32-bit read of the register window. -/
def busRead (offset : Nat) : BusAccess := { offset := offset, width := 32, dir := .read }

/-- A 32-bit write of the register window. -/
def busWrite (offset : Nat) (v : Word) : BusAccess := { offset := offset, width := 32, dir := .write v }

/-- The write that issues a command word (R90). -/
def cmdWrite (w : Word) : BusAccess := busWrite Reg.cmd.offset w

/-- The one bus operation a line assembles to (R100), none where an operand is outside its range. -/
def assemble (l : AsmLine) : Option BusAccess :=
  if l.wellFormed then
    match l with
    | .wr r imm => some (busWrite r.offset (BitVec.ofNat 32 imm))
    | .rd r => some (busRead r.offset)
    | .lookup code => some (cmdWrite (encode (.lookup (BitVec.ofNat 8 code))))
    | .decode => some (cmdWrite (encode .decode))
    | .pcmRead index => some (cmdWrite (encode (.pcmRead (BitVec.ofNat 24 index))))
  else none

/-- DECODE_AT's expansion (R101). -/
def decodeAtLines (off n : Nat) : List AsmLine :=
  [.wr (.named .dataOffset) off, .wr (.named .dataSize) n, .decode]

/-- The expansion of a pseudo-instruction (R101); a POLL that reads STATUS k times is k lines RD STATUS. -/
def PseudoLine.lines : PseudoLine → List AsmLine
  | .decodeAt off n => decodeAtLines off n
  | .poll reads => List.replicate reads (.rd (.named .status))
  | .decodeWait off n reads => decodeAtLines off n ++ List.replicate reads (.rd (.named .status))
  | .expand code => [.lookup code, .rd (.named .result)]
  | .fetch index => [.pcmRead index, .rd (.named .result)]

/-- POLL's loop ends at a read with STATUS[1:0] = 2 (DONE) or 3 (ERROR) (R101). -/
def pollEnds (status : Word) : Bool :=
  status.extractLsb' 0 2 == 2 || status.extractLsb' 0 2 == 3

end Sys2Proof
end

