-- ==== Sys2Proof/Config.lean ====
section
/-! DEFINITION. What an implementation and its platform fix (00_scope.md R6, 92_eei_decisions.md "Open
parameters") and the free values: opaque constants, so that no proof can see what they are. -/

namespace Sys2Proof

/-- SOURCE_MODEL with the source's bytes F (20_memory.md R78). -/
inductive SourceModel where
  | free
  | file (bytes : List Byte)
  | fileExact (bytes : List Byte)
  deriving DecidableEq, Repr, Inhabited

/-- The model's arguments PCM_CAP and SOURCE_MODEL (R6). PCM_CAP is held as PCM_CAP - 1, below 2^24, so that
R6's range 1..2^24 holds of every value of the type. -/
structure Platform where
  capPred : Fin 16777216
  source : SourceModel
  deriving DecidableEq, Repr, Inhabited

/-- The parameter PCM_CAP (R6). -/
def Platform.pcmCap (p : Platform) : Nat := p.capPred.val + 1

/-- CHUNK (R6): the most bytes one request asks for. -/
def chunkBytes : Nat := 1024

/-- The platform the block is built into: OPEN in the spec, free here (log 4). -/
opaque Config.platform : Platform

/-- The event that comes next where State.inputs lists none, by the number of such choices made before: the
order of the agents' steps and what the host and the source send are any value (93 U2, U4), free here (log 1). -/
opaque Config.freeEvent : Nat → Event

end Sys2Proof
end

