-- ==== Sys2Proof/Machine/State.lean ====
section
/-! DEFINITION. The state of the block (10_state.md R21), what it is right after reset (R39), and the reasons a
step can stop. -/

namespace Sys2Proof.Machine

/-- The engine state (10_state.md R35). -/
inductive EngState where
  | idle | busy | done | error
  deriving DecidableEq, Repr

/-- The engine phase (10_state.md R34), meaningful while BUSY. -/
inductive Phase where
  | issue | wait | convert
  deriving DecidableEq, Repr

/-- The decode error codes: STATUS.DEC_ERR (60_exceptions.md R181). -/
inductive DecErr where
  | none | truncated | capacity | sourceFault
  deriving DecidableEq, Repr

/-- The block's response to a host access addressed to it (42_host_access.md R160, R161). -/
inductive BusReply where
  /-- An admitted write is answered OK. -/
  | written
  /-- An admitted read is answered OK with the register's value. -/
  | data (v : Word)
  /-- BusError(): the access was not admitted. -/
  | busError
  deriving DecidableEq, Repr

/-- A length or an index of the chunk buffer: 0..1024 (10_state.md R21). -/
abbrev ChunkCount := Fin 1025

/-- The state record of 10_state.md R21, and after it the model's own fields (INVENTORY.md, State). -/
structure State where
  /-- R35. -/
  state : EngState
  /-- R34. -/
  phase : Phase
  /-- STATUS.DEC_ERR (R26). -/
  decErr : DecErr
  /-- STATUS.CMD_ERR (R26). -/
  cmdErr : CmdErr
  /-- DATA_OFFSET (R24). -/
  dataOffset : Word
  /-- DATA_SIZE (R25). -/
  dataSize : Word
  /-- RESULT (R27). -/
  result : Word
  /-- PRODUCED (R28). -/
  produced : Word
  /-- LENGTH (R29). -/
  length : Word
  /-- The source position of the next byte to request (R34). -/
  pos : Pos
  /-- The length of the outstanding or last request (R34). -/
  reqLen : ChunkCount
  /-- The number of bytes of the last answer (R34). -/
  chunkLen : ChunkCount
  /-- The index in chunk of the next byte to convert (R34). -/
  chunkIdx : ChunkCount
  /-- The chunk buffer (R33): the bytes that hold a value, rising by index. -/
  chunk : List Host.Cell
  /-- The PCM buffer (R32): the slots that hold a value, rising by index. It has no byte view (R63). -/
  pcm : List (Nat × Sample)
  /-- The model's own: PCM_CAP and SOURCE_MODEL, which no step changes (log 4). -/
  platform : Platform
  /-- The model's own: what the agents do next, the first event first (log 1). -/
  inputs : List Event
  /-- The model's own: how many free events have been taken (log 1). -/
  choices : Nat
  /-- The model's own: the response to the latest host access addressed to the block (log 6). -/
  busReply : Option BusReply
  deriving DecidableEq, Repr

/-- Why a step stops with a fault. -/
inductive Fault where
  /-- Raised by PCM_READ on a slot that holds no value (10_state.md R21, 93 U1). Safe: the spec makes that
  read a model fault, and no run from reset reaches it. -/
  | pcmNoValue (slot : Nat)
  /-- Raised by PCM_READ or ENG_CONVERT on a slot at or above PCM_CAP, which does not exist (R32). Safe: no run
  from reset reaches it. -/
  | pcmSlotAbsent (slot : Nat)
  /-- Raised by ENG_CONVERT on a chunk byte that holds no value (R21, 93 U1). Safe: no run from reset reaches it. -/
  | chunkNoValue (index : Nat)
  /-- Raised by ENG_CONVERT on the chunk index 1024, which does not exist (R33). Safe: no run from reset
  reaches it. -/
  | chunkByteAbsent (index : Nat)
  deriving DecidableEq, Repr

/-- Why a step is refused. -/
inductive Refusal where
  /-- Raised by an arm of exec whose instruction has no meaning yet. Safe. No arm raises it now. -/
  | notModelled (mnemonic : String)
  deriving DecidableEq, Repr

/-- The parameter PCM_CAP (00_scope.md R6). -/
def State.pcmCap (s : State) : Nat := s.platform.pcmCap

/-- The machine right after reset (10_state.md R39), before any agent has acted. The platform is free (log 4). -/
def State.reset : State where
  state := .idle
  phase := .issue
  decErr := .none
  cmdErr := .ok
  dataOffset := 0
  dataSize := 0
  result := 0
  produced := 0
  length := 0
  pos := 0
  reqLen := 0
  chunkLen := 0
  chunkIdx := 0
  chunk := []
  pcm := []
  platform := Config.platform
  inputs := []
  choices := 0
  busReply := none

end Sys2Proof.Machine
end

