-- ==== Sys2Proof/Machine/Operands.lean ====
section
/-! DEFINITION. Operand assembly (30_encoding.md R95): no sign extension, scaling or shift. -/

namespace Sys2Proof.Machine

/-- INDEX = zext_32(w[23:0]) (R95). -/
def indexOperand (index : BitVec 24) : Word := index.setWidth 32

/-- off = reg[DATA_OFFSET], widened to u33 for pos (R95). -/
def offOperand (s : State) : Pos := s.dataOffset.setWidth 33

/-- n = reg[DATA_SIZE] (R95). -/
def sizeOperand (s : State) : Word := s.dataSize

/-- RESULT takes a sample as sext_32 (10_state.md R27). -/
def resultOf (v : Sample) : Word := v.signExtend 32

end Sys2Proof.Machine
end

