-- ==== Sys2Proof/Machine/Ops.lean ====
section
/-! DEFINITION. The shared operations: the table (40_lut.md), the two buffers (10_state.md R32, R33), rejecting a
command and entering ERROR (60_exceptions.md R185, R187), and reset, the only return from ERROR
(70_reset_and_hazards.md R210). -/

namespace Sys2Proof.Machine

/-! ### The decompression table -/

/-- The magnitude s after bias removal, on mathematical integers (40_lut.md R110, steps 2 and 3), from the
inverted code u. -/
def lutMagnitude (u : Nat) : Nat :=
  ((((u &&& 0x0F) <<< 3) + 0x84) <<< ((u >>> 4) &&& 0x07)) - 0x84

/-- The table entry of a code (40_lut.md R110): step 1 inverts the bits, step 4 applies the sign and keeps 16
bits. -/
def lut (code : Byte) : Sample :=
  let u := (~~~code).toNat
  let s : Int := lutMagnitude u
  BitVec.ofInt 16 (if u &&& 0x80 ≠ 0 then -s else s)

/-! ### Buffers: (index, value) pairs, indices strictly rising; an unlisted index holds no value -/

/-- The value at an index, none where it holds no value (10_state.md R21). -/
def Memory.read {α : Type} : List (Nat × α) → Nat → Option α
  | [], _ => none
  | (a, v) :: m, i => if a = i then some v else Memory.read m i

/-- Stores a value at an index and keeps the indices rising. -/
def Memory.write {α : Type} : List (Nat × α) → Nat → α → List (Nat × α)
  | [], i, v => [(i, v)]
  | (a, w) :: m, i, v =>
    if i < a then (i, v) :: (a, w) :: m
    else if i = a then (i, v) :: m
    else (a, w) :: Memory.write m i v

/-- A buffer in which no index holds a value. -/
def Memory.cleared {α : Type} : List (Nat × α) := []

/-- Every index listed is at least lo, and the indices rise strictly. -/
def Memory.risingFrom {α : Type} : Nat → List (Nat × α) → Bool
  | _, [] => true
  | lo, (a, _) :: m => decide (lo ≤ a) && Memory.risingFrom (a + 1) m

/-- The canonical form: indices strictly rising. An unlisted index holds no value, so no listed entry can equal
what it reads as. -/
def Memory.wf {α : Type} (m : List (Nat × α)) : Bool := Memory.risingFrom 0 m

/-- PcmRead(j) (00_scope.md R10): a slot that does not exist or holds no value is a fault (10_state.md R21). -/
def pcmRead (j : Nat) (s : State) : Except Fault Sample :=
  if j < s.pcmCap then
    match Memory.read s.pcm j with
    | some v => .ok v
    | none => .error (.pcmNoValue j)
  else .error (.pcmSlotAbsent j)

/-- PcmWrite(j, v) (00_scope.md R10): the PCM buffer after it. -/
def pcmWrite (j : Nat) (v : Sample) (s : State) : Except Fault (List (Nat × Sample)) :=
  if j < s.pcmCap then .ok (Memory.write s.pcm j v) else .error (.pcmSlotAbsent j)

/-- ChunkRead(t) (00_scope.md R10). -/
def chunkRead (t : Nat) (s : State) : Except Fault Byte :=
  if t < chunkBytes then
    match Memory.read s.chunk t with
    | some b => .ok b
    | none => .error (.chunkNoValue t)
  else .error (.chunkByteAbsent t)

/-- ChunkWrite(t + i, bs[i]) for each i in order (41_decode.md R135); the other bytes keep what they held. -/
def chunkFill : List Byte → Nat → List Host.Cell → List Host.Cell
  | [], _, c => c
  | b :: bs, t, c => chunkFill bs (t + 1) (Memory.write c t b)

/-- A number of chunk bytes as a 0..1024 field; callers pass at most 1024. -/
def chunkCount (n : Nat) : ChunkCount := Fin.ofNat 1025 n

/-! ### Results, rejections and decode errors -/

/-- An accepted command that returns a sample: RESULT takes it, CMD_ERR becomes OK (40_lut.md R118,
42_host_access.md R164). -/
def acceptResult (v : Word) (s : State) : State := { s with result := v, cmdErr := .ok }

/-- reject(c): CMD_ERR and no other state (60_exceptions.md R187). -/
def reject (c : CmdErr) (s : State) : State := { s with cmdErr := c }

/-- raise DecodeError(code): entry into ERROR (60_exceptions.md R185). Nothing else is saved or changed, phase
among it (log 8). -/
def raiseDecodeError (code : DecErr) (s : State) : State := { s with state := .error, decErr := code }

/-- What an accepted DECODE clears first (41_decode.md R130). -/
def acceptDecode (s : State) : State := { s with cmdErr := .ok, produced := 0, decErr := .none }

/-- The allocation failed: no buffer, no read, ERROR with CAPACITY (41_decode.md R130, 60_exceptions.md R183). -/
def failAllocation (s : State) : State := raiseDecodeError .capacity { s with length := 0 }

/-- Allocates exactly n slots, then seeks to off (41_decode.md R130). No slot holds a value after it: neither the n
allocated ones nor those of the previous buffer, which is discarded (R130's corner case, 70_reset_and_hazards.md
R217; log 7). -/
def beginDecode (off : Pos) (n : Word) (s : State) : State :=
  { s with
    length := n
    pcm := Memory.cleared
    pos := off
    reqLen := 0
    chunkLen := 0
    chunkIdx := 0
    phase := .issue
    state := .busy }

/-- The reset input (70_reset_and_hazards.md R210): every piece of the block's state takes its value of
10_state.md R39. The platform, the agents' next events and the last bus response are not the block's. -/
def resetBlock (s : State) : State :=
  { State.reset with
    platform := s.platform
    inputs := s.inputs
    choices := s.choices
    busReply := s.busReply }

/-- The block's response to the host (42_host_access.md R160, R161). -/
def respond (r : BusReply) (s : State) : State := { s with busReply := some r }

/-- Applies f to the next state of an outcome; a fault or a refusal stands. -/
def onNext (f : State → State) : Host.Outcome State Fault Refusal → Host.Outcome State Fault Refusal
  | .next s => .next (f s)
  | .fault r => .fault r
  | .refused r => .refused r

end Sys2Proof.Machine
end

