-- ==== Sys2Proof/Machine/Lookup.lean ====
section
/-! DEFINITION. LOOKUP (40_lut.md R118). -/

namespace Sys2Proof.Machine

/-- LOOKUP CODE, accepted in every STATE (R118). -/
def execLookup (code : Byte) (s : State) : Host.Outcome State Fault Refusal :=
  .next (acceptResult (resultOf (lut code)) s)

end Sys2Proof.Machine
end

