-- ==== Sys2Proof/Machine/PcmRead.lean ====
section
/-! DEFINITION. PCM_READ (42_host_access.md R164). -/

namespace Sys2Proof.Machine

/-- PCM_READ INDEX: the state test first, then the index test, then the sample (R164, 60_exceptions.md R188).
Reading does not consume the sample. -/
def execPcmRead (index : BitVec 24) (s : State) : Host.Outcome State Fault Refusal :=
  if s.state ≠ .done then
    .next (reject .badState s)
  else if s.length ≤ indexOperand index then
    .next (reject .indexRange s)
  else
    match pcmRead (indexOperand index).toNat s with
    | .ok v => .next (acceptResult (resultOf v) s)
    | .error r => .fault r

end Sys2Proof.Machine
end

