-- ==== Sys2Proof/Machine/StartDecode.lean ====
section
/-! DEFINITION. DECODE (41_decode.md R130). -/

namespace Sys2Proof.Machine

/-- DECODE: rejected in BUSY and ERROR; otherwise the operands are latched and the allocation is decided before
any request (R130, R131). -/
def execDecode (s : State) : Host.Outcome State Fault Refusal :=
  if s.state = .busy ∨ s.state = .error then
    .next (reject .badState s)
  else if s.pcmCap < (sizeOperand s).toNat then
    .next (failAllocation (acceptDecode s))
  else
    .next (beginDecode (offOperand s) (sizeOperand s) (acceptDecode s))

end Sys2Proof.Machine
end

