-- ==== Sys2Proof/Machine/Dispatch.lean ====
section
/-! DEFINITION. One arm per command, each a direct call of its meaning. -/

namespace Sys2Proof.Machine

/-- The effect of a decoded command (42_host_access.md R163). -/
def exec (i : Instr) (s : State) : Host.Outcome State Fault Refusal :=
  match i with
  | .lookup code => Sys2Proof.Machine.execLookup code s
  | .decode => Sys2Proof.Machine.execDecode s
  | .pcmRead index => Sys2Proof.Machine.execPcmRead index s

end Sys2Proof.Machine
end

