-- ==== Sys2Proof/Machine/Flags.lean ====
section
/-! DEFINITION. The fields of STATUS (10_state.md R26), the block's only flags (R37). -/

namespace Sys2Proof.Machine

/-- STATUS.STATE (R26). -/
def stateCode : EngState → BitVec 2
  | .idle => 0
  | .busy => 1
  | .done => 2
  | .error => 3

/-- The code of a phase in STATUS.PHASE (R26). -/
def phaseCode : Phase → BitVec 2
  | .issue => 0
  | .wait => 1
  | .convert => 2

/-- STATUS.DEC_ERR (R26, 60_exceptions.md R181). -/
def decErrCode : DecErr → BitVec 4
  | .none => 0
  | .truncated => 1
  | .capacity => 2
  | .sourceFault => 3

/-- STATUS.CMD_ERR (R26, 60_exceptions.md R186). -/
def cmdErrCode : CmdErr → BitVec 4
  | .ok => 0
  | .badOpcode => 1
  | .reservedBits => 2
  | .badState => 3
  | .indexRange => 4

/-- STATUS.PHASE: the phase while BUSY, 0 in every other state (R26). -/
def phaseField (s : State) : BitVec 2 :=
  if s.state = .busy then phaseCode s.phase else 0

/-- STATUS: the four fields in bits 11:0, zero above (R26). -/
def statusWord (s : State) : Word :=
  (cmdErrCode s.cmdErr ++ decErrCode s.decErr ++ phaseField s ++ stateCode s.state).setWidth 32

end Sys2Proof.Machine
end

