-- ==== Sys2Proof/Machine/Bus.lean ====
section
/-! DEFINITION. The host's register accesses (42_host_access.md R160 to R163). -/

namespace Sys2Proof.Machine

/-- The value of a named register (R161). -/
def regValue (r : Reg) (s : State) : Word :=
  match r with
  | .cmd => 0
  | .status => statusWord s
  | .dataOffset => s.dataOffset
  | .dataSize => s.dataSize
  | .result => s.result
  | .produced => s.produced
  | .length => s.length
  | .capacity => BitVec.ofNat 32 s.pcmCap

/-- readReg(offset): a reserved offset reads 0 (R161). -/
def readReg (offset : Nat) (s : State) : Word :=
  match regAt offset with
  | some r => regValue r s
  | none => 0

/-- executeCmd(w): the command w encodes, or its rejection (R163). -/
def executeCmd (w : Word) (s : State) : Host.Outcome State Fault Refusal :=
  match decodeCmd w with
  | .error c => .next (reject c s)
  | .ok i => exec i s

/-- A write of DATA_OFFSET only stores its value (20_memory.md R72). -/
def setDataOffset (v : Word) (s : State) : State := { s with dataOffset := v }

/-- A write of DATA_SIZE only stores its value (20_memory.md R72). -/
def setDataSize (v : Word) (s : State) : State := { s with dataSize := v }

/-- writeReg(offset, v): writes to read-only and reserved offsets have no effect (R162). -/
def writeReg (offset : Nat) (v : Word) (s : State) : Host.Outcome State Fault Refusal :=
  match regAt offset with
  | some .cmd => executeCmd v s
  | some .dataOffset => .next (setDataOffset v s)
  | some .dataSize => .next (setDataSize v s)
  | _ => .next s

/-- An access inside the 256-byte window; any other is not addressed to the block (R160). -/
def addressed (a : BusAccess) : Bool := decide (a.offset ≤ 0xFF)

/-- The admission test (R160, 20_memory.md R70). -/
def admitted (a : BusAccess) : Bool :=
  decide (a.width = 32) && decide (a.offset % 4 = 0) && decide (a.offset ≤ 0xFC)

/-- One host access (R160 to R162): without effect outside the window, answered BusError where it is not
admitted, a register read or write otherwise. -/
def hostAccess (a : BusAccess) (s : State) : Host.Outcome State Fault Refusal :=
  if addressed a = false then .next s
  else if admitted a = false then .next (respond .busError s)
  else
    match a.dir with
    | .read => .next (respond (.data (readReg a.offset s)) s)
    | .write v => onNext (respond .written) (writeReg a.offset v s)

end Sys2Proof.Machine
end

