-- ==== Sys2Proof/Machine/Engine.lean ====
section
/-! DEFINITION. The steps of the engine and of the source (41_decode.md R133 to R137, 20_memory.md R77 to R79). -/

namespace Sys2Proof.Machine

/-- ENG_ISSUE is enabled (41_decode.md R133). -/
def issueEnabled (s : State) : Bool := decide (s.state = .busy) && decide (s.phase = .issue)

/-- SRC_ANSWER is enabled: a request is outstanding (R135, 10_state.md R34). -/
def answerEnabled (s : State) : Bool := decide (s.state = .busy) && decide (s.phase = .wait)

/-- ENG_CONVERT is enabled (R137). -/
def convertEnabled (s : State) : Bool := decide (s.state = .busy) && decide (s.phase = .convert)

/-- The outstanding source request (pos, length), none where none is outstanding (10_state.md R34). -/
def outstandingRequest (s : State) : Option (Pos × ChunkCount) :=
  if answerEnabled s then some (s.pos, s.reqLen) else none

/-- The length of the next request (R134). -/
def requestLength (s : State) : Nat := min chunkBytes (s.length.toNat - s.produced.toNat)

/-- SourceRequest(pos, r): the request becomes outstanding (R133, 20_memory.md R77). -/
def issueRequest (r : ChunkCount) (s : State) : State := { s with reqLen := r, phase := .wait }

/-- The buffer is complete (R133). -/
def finishDecode (s : State) : State := { s with state := .done }

/-- ENG_ISSUE (R133). -/
def engIssue (s : State) : State :=
  if s.produced = s.length then finishDecode s else issueRequest (chunkCount (requestLength s)) s

/-- The bytes of a non-empty answer are taken into the chunk buffer (R135). -/
def takeAnswer (bs : List Byte) (s : State) : State :=
  { s with
    chunk := chunkFill bs 0 s.chunk
    chunkLen := chunkCount bs.length
    chunkIdx := 0
    pos := s.pos + BitVec.ofNat 33 bs.length
    phase := .convert }

/-- SRC_ANSWER (R135): FAULT and a zero-length answer are decode errors, any other answer is taken. -/
def srcAnswer (a : SourceAnswer) (s : State) : State :=
  match a with
  | .fault => raiseDecodeError .sourceFault s
  | .bytes [] => raiseDecodeError .truncated s
  | .bytes (b :: bs) => takeAnswer (b :: bs) s

/-- What follows the PCM write of a conversion (R137). -/
def advanceConvert (pcm : List (Nat × Sample)) (s : State) : State :=
  { s with
    pcm := pcm
    produced := s.produced + 1
    chunkIdx := chunkCount (s.chunkIdx.val + 1)
    phase := if s.chunkIdx.val + 1 = s.chunkLen.val then .issue else s.phase }

/-- ENG_CONVERT (R137): one code becomes one sample. -/
def engConvert (s : State) : Host.Outcome State Fault Refusal :=
  match chunkRead s.chunkIdx.val s with
  | .error r => .fault r
  | .ok b =>
    match pcmWrite s.produced.toNat (lut b) s with
    | .error r => .fault r
    | .ok pcm => .next (advanceConvert pcm s)

/-- The engine's step: whichever of its two steps is enabled; with none enabled, no effect (log 2). -/
def engineStep (s : State) : Host.Outcome State Fault Refusal :=
  if issueEnabled s then .next (engIssue s)
  else if convertEnabled s then engConvert s
  else .next s

/-- The answers SOURCE_MODEL admits to a request for r bytes at position pos (20_memory.md R78). -/
def admitsAnswer (m : SourceModel) (pos r : Nat) (a : SourceAnswer) : Bool :=
  match m, a with
  | .free, .fault => true
  | .free, .bytes bs => decide (bs.length ≤ r)
  | .file _, .fault => false
  | .file f, .bytes bs =>
    if f.length ≤ pos then bs.isEmpty
    else
      decide (1 ≤ bs.length) && decide (bs.length ≤ min r (f.length - pos))
        && decide (bs = (f.drop pos).take bs.length)
  | .fileExact _, .fault => false
  | .fileExact f, .bytes bs =>
    if f.length ≤ pos then bs.isEmpty
    else decide (bs = (f.drop pos).take (min r (f.length - pos)))

/-- The source's step: an admitted answer to the outstanding request; an answer that is not admitted, or with
no request outstanding, has no effect (70_reset_and_hazards.md R222, R211; log 2). -/
def sourceStep (a : SourceAnswer) (s : State) : Host.Outcome State Fault Refusal :=
  if answerEnabled s && admitsAnswer s.platform.source s.pos.toNat s.reqLen.val a then .next (srcAnswer a s)
  else .next s

end Sys2Proof.Machine
end

