-- ==== Sys2Proof/Machine/Agents.lean ====
section
/-! DEFINITION. The four agents (10_state.md R20) and which of them acts next. -/

namespace Sys2Proof.Machine

/-- The step an agent takes, with what it sends (R20). -/
def agentStep (e : Event) (s : State) : Host.Outcome State Fault Refusal :=
  match e with
  | .host a => hostAccess a s
  | .engine => engineStep s
  | .source a => sourceStep a s
  | .reset => .next (resetBlock s)

/-- The next event and the state that has taken it: the first of State.inputs, or a free event where none is
listed (20_memory.md R75, 93 U4; log 1). -/
def takeEvent (s : State) : Event × State :=
  match s.inputs with
  | e :: rest => (e, { s with inputs := rest })
  | [] => (Config.freeEvent s.choices, { s with choices := s.choices + 1 })

/-- s with one event placed before all others. -/
def withEvent (e : Event) (s : State) : State := { s with inputs := e :: s.inputs }

end Sys2Proof.Machine
end

