-- ==== Sys2Proof/Machine/Step.lean ====
section
/-! DEFINITION. One step of the machine: one atomic step of one agent (00_scope.md R11, 10_state.md R20). -/

namespace Sys2Proof.Machine

/-- Takes the next event and runs its agent. -/
def step (s : State) : Host.Outcome State Fault Refusal :=
  agentStep (takeEvent s).1 (takeEvent s).2

/-- s with the host's write of a command word to CMD as the very next event. The block fetches no instructions
(20_memory.md R82): a command is executed in the step of that write (log 3). -/
def State.withFetchWord (s : State) (nbits w : Nat) : State :=
  withEvent (.host (cmdWrite (tableWord nbits w))) s

end Sys2Proof.Machine
end

