-- ==== Sys2Proof/Safety.lean ====
section
/-! DEFINITION. What counts as a safe run, in the terms claims use: the invariants of 10_state.md R38, the header
check that is the host's duty (70_reset_and_hazards.md R219), and what is left of a decode (R218). -/

namespace Sys2Proof.Machine

/-- The bytes taken from the source and not yet converted (41_decode.md R142). -/
def heldBytes (s : State) : Nat :=
  match s.phase with
  | .convert => s.chunkLen.val - s.chunkIdx.val
  | _ => 0

/-- The source position of a decode accepted with DATA_OFFSET = off: off, plus the samples produced, plus the bytes
held and not yet converted (R38). -/
def DecodesFrom (off : Word) (s : State) : Prop :=
  s.pos.toNat = off.toNat + s.produced.toNat + heldBytes s

/-- The invariants of 10_state.md R38. That off is the same from step to step is no property of one state: it is
Obligations.EngineInvKept. -/
structure EngineInv (s : State) : Prop where
  produced_le_length : s.produced.toNat ≤ s.length.toNat
  length_le_cap : s.length.toNat ≤ s.pcmCap
  decErr_iff : s.decErr ≠ .none ↔ s.state = .error
  done_complete : s.state = .done → s.produced = s.length
  slots_written : ∀ j, j < s.produced.toNat → ∃ v, Memory.read s.pcm j = some v
  busy_pos : s.state = .busy → ∃ off, DecodesFrom off s
  wait_request : s.state = .busy → s.phase = .wait →
    1 ≤ s.reqLen.val ∧ s.reqLen.val ≤ min chunkBytes (s.length.toNat - s.produced.toNat)
  convert_index : s.state = .busy → s.phase = .convert →
    s.chunkIdx.val < s.chunkLen.val ∧ s.chunkLen.val ≤ s.reqLen.val
  convert_room : s.state = .busy → s.phase = .convert →
    s.produced.toNat + (s.chunkLen.val - s.chunkIdx.val) ≤ s.length.toNat
  convert_bytes : s.state = .busy → s.phase = .convert →
    ∀ t, s.chunkIdx.val ≤ t → t < s.chunkLen.val → ∃ b, Memory.read s.chunk t = some b

/-- What the buffers and RESULT hold in every reachable state: the canonical form, indices that exist
(10_state.md R32, R33), nothing but table entries (40_lut.md R119), and no value in a slot that the latest decode has
not written (R32). A failed allocation sets PRODUCED to 0 and leaves the buffer as it was (log 7). -/
structure StorageInv (s : State) : Prop where
  pcm_wf : Memory.wf s.pcm = true
  pcm_exists : ∀ c ∈ s.pcm, c.1 < s.pcmCap
  pcm_entry : ∀ c ∈ s.pcm, ∃ code, c.2 = lut code
  pcm_unwritten : (s.state = .error ∧ s.decErr = .capacity)
    ∨ ∀ j, s.produced.toNat ≤ j → Memory.read s.pcm j = none
  chunk_wf : Memory.wf s.chunk = true
  chunk_exists : ∀ c ∈ s.chunk, c.1 < chunkBytes
  result_entry : ∃ code, s.result = resultOf (lut code)

/-- A run from s of any length stops with no fault and no refusal. -/
def RunsOn (s : State) : Prop := ∀ k, ∃ t, Host.Core.run Sys2Proof.core k s = .next t

/-- t is reached from s in k steps, and every state before t on the way is BUSY. -/
def BusyRun (k : Nat) (s t : State) : Prop :=
  Host.Core.run Sys2Proof.core k s = .next t ∧
    ∀ i u, i < k → Host.Core.run Sys2Proof.core i s = .next u → u.state = .busy

/-- The source holds the bytes f, and answers with them (SOURCE_MODEL is FILE or FILE_EXACT, 20_memory.md R78). -/
def SourceHolds (f : List Byte) (s : State) : Prop :=
  s.platform.source = .file f ∨ s.platform.source = .fileExact f

/-- Slot j of the PCM buffer holds the table entry of the source's byte off + j, for every j below n (41_decode.md
R139). -/
def Decoded (f : List Byte) (off n : Nat) (s : State) : Prop :=
  ∀ j, j < n → ∃ code, f[off + j]? = some code ∧ Memory.read s.pcm j = some (lut code)

/-- The engine and source steps a decode may still take (70_reset_and_hazards.md R218): at most one request and
one answer for every sample, one conversion for each, and the last ENG_ISSUE. -/
def stepsLeft (s : State) : Nat :=
  match s.state, s.phase with
  | .busy, .issue => 3 * (s.length.toNat - s.produced.toNat) + 1
  | .busy, .wait => 3 * (s.length.toNat - s.produced.toNat)
  | .busy, .convert => 3 * (s.length.toNat - s.produced.toNat) - 1
  | _, _ => 0

/-- The event whose agent has the enabled step of a decode, with a source that answers every byte it has
(SOURCE_MODEL FILE_EXACT, 20_memory.md R78). -/
def decodeEvent (f : List Byte) (s : State) : Event :=
  if answerEnabled s then .source (.bytes ((f.drop s.pos.toNat).take s.reqLen.val)) else .engine

/-- The decode driven by its own agents alone: k times the event whose step is enabled. -/
def drive (f : List Byte) : Nat → State → Host.Outcome State Fault Refusal
  | 0, s => .next s
  | k + 1, s =>
    match step (withEvent (decodeEvent f s) s) with
    | .next t => drive f k t
    | .fault r => .fault r
    | .refused r => .refused r

/-! ### The host's duty before DECODE (R219) -/

/-- The header errors of the host's check (R219); the block raises none of them (60_exceptions.md R195). -/
inductive HeaderError where
  | format | unsupportedEncoding | unsupportedFormat
  deriving DecidableEq, Repr

/-- The big-endian u32 at byte i of the header (20_memory.md R68); bytes past the end count as zero. -/
def headerField (h : List Byte) (i : Nat) : Word :=
  h.getD i 0 ++ h.getD (i + 1) 0 ++ h.getD (i + 2) 0 ++ h.getD (i + 3) 0

/-- The host's check of the container header: the (DATA_OFFSET, DATA_SIZE) to write, or the error (R219, R68). -/
def checkHeader (h : List Byte) : Except HeaderError (Word × Word) :=
  if h.length < 24 then .error .format
  else if headerField h 0 ≠ 0x2e736e64 then .error .format
  else if headerField h 12 ≠ 1 then .error .unsupportedEncoding
  else if headerField h 16 ≠ 8000 ∨ headerField h 20 ≠ 1 then .error .unsupportedFormat
  else if headerField h 8 = 0xFFFFFFFF then .error .unsupportedFormat
  else .ok (headerField h 4, headerField h 8)

end Sys2Proof.Machine
end

