-- ==== Sys2Proof/Certificates/Slice0/Obligations.lean ====
section
/-! DEFINITION. The statements for the provers. They come from the numbered rules of spec/; OBLIGATIONS.json
says which. A record update in a conclusion is the statement's frame: every field it does not name is unchanged. -/

open Sys2Proof Sys2Proof.Machine

/-! ### Encoding -/

/-- R99, R92 to R94: each command has one word, and the decoder reads that word and no other as the command. -/
def Obligations.DecodeEncodeExact : Prop :=
  ∀ (w : Word) (i : Instr), decodeCmd w = .ok i ↔ w = encode i

/-- Words written out from R92 to R94, R96, R97 (95_test_vectors.md 2.2). -/
def Obligations.SampleWordsDecode : Prop :=
  decodeCmd 0x010000FF = .ok (.lookup 0xFF) ∧ decodeCmd 0x02000000 = .ok .decode
    ∧ decodeCmd 0x03FFFFFF = .ok (.pcmRead 0xFFFFFF) ∧ decodeCmd 0x01000100 = .error .reservedBits
    ∧ decodeCmd 0x02800000 = .error .reservedBits ∧ decodeCmd 0x81000000 = .error .badOpcode

/-- R96, R97, R187, R188: in every state, writing a word with an illegal opcode or with reserved bits set changes
CMD_ERR and nothing else; the opcode is tested first. (busReply is the model's record of the bus response, log 6.) -/
def Obligations.IllegalWordsChangeOnlyCmdErr : Prop :=
  ∀ (w : Word) (s : State),
    ((w.toNat / 2 ^ 24 ≠ 1 ∧ w.toNat / 2 ^ 24 ≠ 2 ∧ w.toNat / 2 ^ 24 ≠ 3) →
      step (withEvent (.host (cmdWrite w)) s)
        = .next { s with cmdErr := .badOpcode, busReply := some .written })
    ∧ ((w.toNat / 2 ^ 24 = 1 ∧ w.toNat / 2 ^ 8 % 2 ^ 16 ≠ 0 ∨ w.toNat / 2 ^ 24 = 2 ∧ w.toNat % 2 ^ 24 ≠ 0) →
      step (withEvent (.host (cmdWrite w)) s)
        = .next { s with cmdErr := .reservedBits, busReply := some .written })

/-- R100: a mnemonic line assembles to exactly one write of CMD, and an operand outside its range is refused. -/
def Obligations.AssemblerRefusesRatherThanTruncates : Prop :=
  (∀ code : Nat, code ≤ 255 → assemble (.lookup code) = some (busWrite 0 (BitVec.ofNat 32 (0x01000000 + code))))
    ∧ (∀ code : Nat, 255 < code → assemble (.lookup code) = none)
    ∧ assemble .decode = some (busWrite 0 0x02000000)
    ∧ (∀ index : Nat, index < 2 ^ 24 →
        assemble (.pcmRead index) = some (busWrite 0 (BitVec.ofNat 32 (0x03000000 + index))))
    ∧ (∀ index : Nat, 2 ^ 24 ≤ index → assemble (.pcmRead index) = none)

/-! ### The step and the register window -/

/-- R163, R82 (the events and the bus response are the model's own fields: logs 1, 3, 6): where the next event is the host's write of a word that decodes to i, the step is exec of i on the
state that has taken the event, answered by the bus; withFetchWord places such an event. -/
def Obligations.StepRunsDecodedCommand : Prop :=
  (∀ (s s' : State) (w : Word) (i : Instr), takeEvent s = (.host (cmdWrite w), s') → decodeCmd w = .ok i →
    step s = match exec i s' with
      | .next t => .next { t with busReply := some .written }
      | .fault r => .fault r
      | .refused r => .refused r)
    ∧ ∀ (s : State) (w : Word), takeEvent (s.withFetchWord 32 w.toNat) = (.host (cmdWrite w), s)

/-- R161: every admitted read answers the register's value and changes nothing in the block. (busReply is the model's
record of the bus response, log 6.) -/
def Obligations.RegisterReadsOfWindow : Prop :=
  ∀ s : State,
    let rd := fun off => step (withEvent (.host { offset := off, width := 32, dir := .read }) s)
    let reply := fun v : Word => (Host.Outcome.next { s with busReply := some (.data v) } : Host.Outcome State Fault Refusal)
    rd 0x00 = reply 0 ∧ rd 0x04 = reply (statusWord s) ∧ rd 0x08 = reply s.dataOffset ∧ rd 0x0C = reply s.dataSize
    ∧ rd 0x10 = reply s.result ∧ rd 0x14 = reply s.produced ∧ rd 0x18 = reply s.length
    ∧ rd 0x1C = reply (BitVec.ofNat 32 s.pcmCap)
    ∧ ∀ off, 0x20 ≤ off → off ≤ 0xFC → off % 4 = 0 → rd off = reply 0

/-- R162: a write of CMD executes the command and is answered by the bus; a write of DATA_OFFSET or DATA_SIZE stores
its value in every STATE and changes nothing else; a write of a read-only or reserved offset has no effect. (busReply
is the model's record of the bus response, log 6.) -/
def Obligations.RegisterWritesOfWindow : Prop :=
  ∀ (s : State) (v : Word),
    let wr := fun off => step (withEvent (.host { offset := off, width := 32, dir := .write v }) s)
    wr 0x00 = (match executeCmd v s with
      | .next t => .next { t with busReply := some .written }
      | .fault r => .fault r
      | .refused r => .refused r)
    ∧ wr 0x08 = .next { s with dataOffset := v, busReply := some .written }
    ∧ wr 0x0C = .next { s with dataSize := v, busReply := some .written }
    ∧ ∀ off, off ≤ 0xFC → off % 4 = 0 → off ≠ 0x00 → off ≠ 0x08 → off ≠ 0x0C →
        wr off = .next { s with busReply := some .written }

/-- R160: an access of the window that is not a 32-bit access at a multiple of 4 gets BusError and changes no
state of the block; an access outside the window is not addressed to the block (log 5). (busReply is the model's
record of the bus response, log 6.) -/
def Obligations.UnadmittedAccessChangesNothing : Prop :=
  ∀ (a : BusAccess) (s : State),
    (a.offset ≤ 0xFF → (a.width ≠ 32 ∨ a.offset % 4 ≠ 0) →
      step (withEvent (.host a) s) = .next { s with busReply := some .busError })
    ∧ (0xFF < a.offset → step (withEvent (.host a) s) = .next s)

/-- R26: the fields of STATUS; PHASE reads 0 outside BUSY and bits 31:12 read 0. -/
def Obligations.StatusWordLayout : Prop :=
  ∀ s : State,
    (statusWord s).toNat =
      (match s.state with | .idle => 0 | .busy => 1 | .done => 2 | .error => 3)
      + (match s.state, s.phase with | .busy, .wait => 4 | .busy, .convert => 8 | _, _ => 0)
      + (match s.decErr with | .none => 0 | .truncated => 0x10 | .capacity => 0x20 | .sourceFault => 0x30)
      + (match s.cmdErr with
          | .ok => 0 | .badOpcode => 0x100 | .reservedBits => 0x200 | .badState => 0x300 | .indexRange => 0x400)

/-- R101: POLL's loop ends exactly when the status it read says DONE or ERROR. -/
def Obligations.PollEndsAtDoneOrError : Prop :=
  ∀ s : State, pollEnds (statusWord s) = true ↔ s.state = .done ∨ s.state = .error

/-! ### The table -/

/-- R113. -/
def Obligations.LutSignSymmetry : Prop :=
  ∀ i : Byte, (lut i).toInt = -(lut (i ^^^ 0x80)).toInt

/-- R115. -/
def Obligations.LutZeroAndSign : Prop :=
  ∀ i : Byte,
    ((lut i).toInt < 0 ↔ i.getLsbD 7 = false ∧ i ≠ 0x7F) ∧ (0 < (lut i).toInt ↔ i.getLsbD 7 = true ∧ i ≠ 0xFF)
    ∧ (lut i = 0 ↔ i = 0x7F ∨ i = 0xFF)

/-- R114: with k = (~i) & 0x7F the magnitude rises strictly in k, by 8 << e inside exponent e = k / 16 and by 12 << e
from its last mantissa to the next exponent; for a fixed bit 7 it falls strictly as i[6:0] rises; k = 127 (codes 0x00
and 0x80) gives 32124, k = 0 (0x7F and 0xFF) gives 0. -/
def Obligations.LutMagnitudeOrder : Prop :=
  ∀ i j : Byte,
    let k := fun c : Byte => (~~~c &&& 0x7F).toNat
    let mag := fun c : Byte => (lut c).toInt.natAbs
    (k i = 127 ↔ mag i = 32124) ∧ (k i = 0 ↔ mag i = 0) ∧ mag i ≤ 32124
    ∧ (k j = k i + 1 → mag j = mag i + (if k i % 16 = 15 then 12 else 8) * 2 ^ (k i / 16))
    ∧ (k i < k j → mag i < mag j)
    ∧ (i.getLsbD 7 = j.getLsbD 7 → i.toNat % 128 < j.toNat % 128 → mag j < mag i)

/-! ### The commands -/

/-- R118: LOOKUP completes in every state. RESULT is, as a signed number, the table's entry in the form of R112's last
table (sign from i[7], exponent 7 - i[6:4], mantissa 15 - i[3:0]); CMD_ERR becomes OK; nothing else changes. -/
def Obligations.LookupReturnsTableEntry : Prop :=
  ∀ (code : Byte) (s : State), ∃ v : Word,
    exec (.lookup code) s = .next { s with result := v, cmdErr := .ok }
    ∧ v.toInt = (if 128 ≤ code.toNat then 1 else -1)
        * (((8 * (15 - code.toNat % 16) + 132) * 2 ^ (7 - code.toNat / 16 % 8) - 132 : Nat) : Int)

/-- R130, R131, R217: DECODE in IDLE or DONE with DATA_SIZE within PCM_CAP completes: LENGTH is DATA_SIZE, the source
position is DATA_OFFSET, the engine is BUSY in ISSUE, and no slot holds a value, neither the allocated ones nor the
previous buffer's (for slots that are neither, the model's reading: log 7); every other field is unchanged. -/
def Obligations.DecodeAcceptedStartsDecode : Prop :=
  ∀ s : State, (s.state = .idle ∨ s.state = .done) → s.dataSize.toNat ≤ s.pcmCap →
    ∃ (m : List (Nat × Sample)) (p : Pos),
      exec .decode s = .next { s with
        cmdErr := .ok, produced := 0, decErr := .none, length := s.dataSize, pcm := m, pos := p,
        reqLen := 0, chunkLen := 0, chunkIdx := 0, phase := .issue, state := .busy }
      ∧ p.toNat = s.dataOffset.toNat
      ∧ ∀ j, Memory.read m j = none

/-- R130, R183, R185: an accepted DECODE whose DATA_SIZE exceeds PCM_CAP enters ERROR with CAPACITY and LENGTH 0, with no
request outstanding; every other field but the phase, which means nothing outside BUSY, is unchanged. (That the slots of
the PCM buffer keep their samples is the model's reading of R130 and R185: log 7.) -/
def Obligations.DecodeTooLargeRaisesCapacity : Prop :=
  ∀ s : State, (s.state = .idle ∨ s.state = .done) → s.pcmCap < s.dataSize.toNat →
    ∃ t p, exec .decode s = .next t
      ∧ t = { s with cmdErr := .ok, produced := 0, length := 0, decErr := .capacity, state := .error, phase := p }
      ∧ outstandingRequest t = none

/-- R148: with DATA_SIZE = 0xFFFFFFFF an accepted DECODE fails with CAPACITY on every platform, and no request is
outstanding after it. -/
def Obligations.UnknownLengthAlwaysFails : Prop :=
  ∀ s : State, (s.state = .idle ∨ s.state = .done) → s.dataSize = 0xFFFFFFFF →
    ∃ t, exec .decode s = .next t ∧ t.state = .error ∧ t.decErr = .capacity ∧ t.length = 0
      ∧ outstandingRequest t = none

/-- R130, R187: in BUSY or ERROR a DECODE sets CMD_ERR = BAD_STATE and changes nothing else. -/
def Obligations.DecodeRejectedInBusyAndError : Prop :=
  ∀ s : State, (s.state = .busy ∨ s.state = .error) → exec .decode s = .next { s with cmdErr := .badState }

/-- R164: outside DONE a PCM_READ is BAD_STATE whatever its index; in DONE an index at or above LENGTH is INDEX_RANGE;
a rejection changes CMD_ERR only. In DONE with INDEX below LENGTH it completes in every state that meets R38's
invariants: the slot holds a value, RESULT is that sample sign-extended, and nothing else changes. -/
def Obligations.PcmReadByStateAndIndex : Prop :=
  ∀ (index : BitVec 24) (s : State),
    (s.state ≠ .done → exec (.pcmRead index) s = .next { s with cmdErr := .badState })
    ∧ (s.state = .done → s.length.toNat ≤ index.toNat →
        exec (.pcmRead index) s = .next { s with cmdErr := .indexRange })
    ∧ (EngineInv s → s.state = .done → index.toNat < s.length.toNat →
        ∃ v : Sample, Memory.read s.pcm index.toNat = some v
          ∧ exec (.pcmRead index) s = .next { s with result := v.signExtend 32, cmdErr := .ok })

/-- R101 EXPAND, R118, R161, R216: a LOOKUP followed by RD RESULT answers the table entry, in every state. (busReply
is the model's record of the bus response, log 6.) -/
def Obligations.ExpandAnswersTableEntry : Prop :=
  ∀ (code : Nat) (s : State), code ≤ 255 →
    ∃ es, (PseudoLine.expand code).lines.mapM assemble = some es
      ∧ Host.Core.run Sys2Proof.core 2 { s with inputs := es.map .host ++ s.inputs }
        = .next { s with
            result := (lut (BitVec.ofNat 8 code)).signExtend 32, cmdErr := .ok
            busReply := some (.data ((lut (BitVec.ofNat 8 code)).signExtend 32)) }

/-! ### The engine and the source -/

/-- R133, R134: ENG_ISSUE finishes the decode when every sample is produced, and otherwise requests
min(1024, LENGTH - PRODUCED) bytes at pos. -/
def Obligations.IssueRequestsWhatRemains : Prop :=
  ∀ s : State, s.state = .busy → s.phase = .issue →
    (s.produced = s.length → step (withEvent .engine s) = .next { s with state := .done })
    ∧ (s.produced.toNat < s.length.toNat → ∃ r : ChunkCount,
        step (withEvent .engine s) = .next { s with reqLen := r, phase := .wait }
        ∧ r.val = min 1024 (s.length.toNat - s.produced.toNat)
        ∧ outstandingRequest { s with reqLen := r, phase := .wait } = some (s.pos, r))

/-- R135, R136, R78: a non-empty answer that SOURCE_MODEL admits fills chunk[0..k-1] in one step, leaves the rest of
chunk as it was, and advances pos by k. Over FREE the admitted ones are those of at most reqLen bytes; over FILE those
whose bytes are F's at pos, at most reqLen and at most what F has left; over FILE_EXACT the longest of these alone. -/
def Obligations.AnswerFillsChunk : Prop :=
  ∀ (s : State) (bs : List Byte), s.state = .busy → s.phase = .wait → bs ≠ [] →
    let admitted := admitsAnswer s.platform.source s.pos.toNat s.reqLen.val (.bytes bs) = true
    let ofFile := fun f : List Byte => ∀ t, t < bs.length → bs[t]? = f[s.pos.toNat + t]?
    (admitted → ∃ (c : List Host.Cell) (k : ChunkCount) (p : Pos),
      step (withEvent (.source (.bytes bs)) s)
        = .next { s with chunk := c, chunkLen := k, chunkIdx := 0, pos := p, phase := .convert }
      ∧ k.val = bs.length ∧ p.toNat = (s.pos.toNat + bs.length) % 2 ^ 33
      ∧ ∀ t, Memory.read c t = if t < bs.length then bs[t]? else Memory.read s.chunk t)
    ∧ (s.platform.source = .free → (admitted ↔ bs.length ≤ s.reqLen.val))
    ∧ (∀ f, s.platform.source = .file f →
        (admitted ↔ bs.length ≤ min s.reqLen.val (f.length - s.pos.toNat) ∧ ofFile f))
    ∧ ∀ f, s.platform.source = .fileExact f →
        (admitted ↔ bs.length = min s.reqLen.val (f.length - s.pos.toNat) ∧ ofFile f)

/-- R135, R78, R182, R184, R185: a zero-length answer raises TRUNCATED and a FAULT raises SOURCE_FAULT; entry into
ERROR changes STATE and DEC_ERR and nothing else, and no request is outstanding after it. (That the phase stays is the
model's reading of R185: log 8.) A FREE source may give either answer; a source that holds F gives the zero-length one
exactly where it has no byte at pos, and never FAULT. -/
def Obligations.AnswerErrorsEnterError : Prop :=
  ∀ s : State, s.state = .busy → s.phase = .wait →
    (admitsAnswer s.platform.source s.pos.toNat s.reqLen.val (.bytes []) = true →
      step (withEvent (.source (.bytes [])) s) = .next { s with state := .error, decErr := .truncated })
    ∧ (s.platform.source = .free →
      step (withEvent (.source .fault) s) = .next { s with state := .error, decErr := .sourceFault })
    ∧ (∀ e, outstandingRequest { s with state := .error, decErr := e } = none)
    ∧ (s.platform.source = .free →
      admitsAnswer s.platform.source s.pos.toNat s.reqLen.val (.bytes []) = true)
    ∧ ∀ f, SourceHolds f s → 1 ≤ s.reqLen.val →
      (admitsAnswer s.platform.source s.pos.toNat s.reqLen.val (.bytes []) = true ↔ f.length ≤ s.pos.toNat)
      ∧ admitsAnswer s.platform.source s.pos.toNat s.reqLen.val .fault = false

/-- R137: ENG_CONVERT writes the table entry of the next chunk byte to slot PRODUCED, counts it, and goes back to
ISSUE after the last byte; every other slot and field is unchanged. -/
def Obligations.ConvertWritesOneSample : Prop :=
  ∀ (s : State), EngineInv s → s.state = .busy → s.phase = .convert →
    ∃ (b : Byte) (m : List (Nat × Sample)) (i : ChunkCount),
      Memory.read s.chunk s.chunkIdx.val = some b
      ∧ step (withEvent .engine s) = .next { s with
          pcm := m, produced := s.produced + 1, chunkIdx := i
          phase := if s.chunkIdx.val + 1 = s.chunkLen.val then .issue else .convert }
      ∧ i.val = s.chunkIdx.val + 1
      ∧ ∀ j, Memory.read m j = if j = s.produced.toNat then some (lut b) else Memory.read s.pcm j

/-- R79, R211, R222: an engine or source event whose step is not enabled, and an answer SOURCE_MODEL does not admit,
have no effect; so outside BUSY neither agent changes anything (R200). The model's reading: log 2. -/
def Obligations.DisabledAgentsChangeNothing : Prop :=
  ∀ (s : State) (a : SourceAnswer),
    (s.state ≠ .busy ∨ s.phase = .wait → step (withEvent .engine s) = .next s)
    ∧ (s.state ≠ .busy ∨ s.phase ≠ .wait
        ∨ admitsAnswer s.platform.source s.pos.toNat s.reqLen.val a = false →
      step (withEvent (.source a) s) = .next s)

/-- R79: an outstanding request stays as it is until its answer or reset ends it; no step puts another in its
place. -/
def Obligations.OneRequestOutstanding : Prop :=
  ∀ (s t : State) (q : Pos × ChunkCount), outstandingRequest s = some q → step s = .next t →
    outstandingRequest t = some q ∨ outstandingRequest t = none

/-! ### Reset -/

/-- R39: the state after reset, and what the host then reads. -/
def Obligations.ResetLeavesStatedValues : Prop :=
  let s := State.reset
  s.state = .idle ∧ s.phase = .issue ∧ s.decErr = .none ∧ s.cmdErr = .ok ∧ s.dataOffset = 0 ∧ s.dataSize = 0
    ∧ s.result = 0 ∧ s.produced = 0 ∧ s.length = 0 ∧ s.pos = 0 ∧ s.reqLen.val = 0 ∧ s.chunkLen.val = 0
    ∧ s.chunkIdx.val = 0 ∧ (∀ i, Memory.read s.chunk i = none) ∧ (∀ j, Memory.read s.pcm j = none)
    ∧ statusWord s = 0 ∧ outstandingRequest s = none ∧ readReg 0x1C s = BitVec.ofNat 32 s.pcmCap

/-- R210: the reset input, in every state, gives the block's state the values of R39; the model's own fields stay
(logs 1, 4, 6). -/
def Obligations.ResetInputFromEveryState : Prop :=
  ∀ s : State, step (withEvent .reset s) = .next { State.reset with
    platform := s.platform, inputs := s.inputs, choices := s.choices, busReply := s.busReply }

/-! ### Invariants -/

/-- R38 holds at reset. -/
def Obligations.EngineInvAtReset : Prop := EngineInv State.reset

/-- R38: every step of every agent keeps the engine's invariants, and the off they name is the DATA_OFFSET the decode
was accepted with: a decode starts from it, and every step within the decode keeps it. -/
def Obligations.EngineInvKept : Prop :=
  ∀ s t : State, EngineInv s → step s = .next t →
    EngineInv t
    ∧ (s.state ≠ .busy → t.state = .busy → DecodesFrom s.dataOffset t)
    ∧ ∀ off, s.state = .busy → DecodesFrom off s → t.state = .busy → DecodesFrom off t

/-- The storage invariant holds at reset. The canonical form of the buffers is the model's (log 9). -/
def Obligations.StorageInvAtReset : Prop := StorageInv State.reset

/-- R119, R27, R32, R33, R130: every step keeps the buffers canonical (the model's form: log 9), within their bounds,
filled with table entries only and without a value in any slot the latest decode has not written (after a failed
allocation the old samples stay: log 7), and RESULT the sign extension of a table entry. -/
def Obligations.StorageInvKept : Prop :=
  ∀ s t : State, StorageInv s → step s = .next t → StorageInv t

/-- 93 U1, R74: from a state that meets R38's invariants no run, however the agents interleave, meets a slot without a
value or stops for any other reason. -/
def Obligations.InvariantStatesNeverStop : Prop :=
  ∀ s : State, EngineInv s → RunsOn s

/-! ### The whole machine -/

/-- R35: every change of STATE is one of those listed, made by the agent and under the condition listed. In particular
ERROR is left only by reset (R193). -/
def Obligations.StateChangesOnlyAsListed : Prop :=
  ∀ s t : State, step s = .next t → s.state ≠ t.state →
    ((takeEvent s).1 = .reset ∧ t.state = .idle)
    ∨ ((takeEvent s).1 = .host (cmdWrite (encode .decode)) ∧ (s.state = .idle ∨ s.state = .done)
        ∧ (t.state = .busy ∧ s.dataSize.toNat ≤ s.pcmCap ∨ t.state = .error ∧ s.pcmCap < s.dataSize.toNat))
    ∨ ((takeEvent s).1 = .engine ∧ s.state = .busy ∧ s.phase = .issue ∧ s.produced = s.length ∧ t.state = .done)
    ∨ ((∃ a, (takeEvent s).1 = .source a) ∧ s.state = .busy ∧ s.phase = .wait ∧ t.state = .error)

/-- R132, R145: no host access disturbs a decode in progress. -/
def Obligations.HostCannotDisturbRunningDecode : Prop :=
  ∀ (s t : State) (a : BusAccess), s.state = .busy → (takeEvent s).1 = .host a → step s = .next t →
    t.state = .busy ∧ t.phase = s.phase ∧ t.decErr = s.decErr ∧ t.produced = s.produced ∧ t.length = s.length
    ∧ t.pos = s.pos ∧ t.reqLen = s.reqLen ∧ t.chunkLen = s.chunkLen ∧ t.chunkIdx = s.chunkIdx
    ∧ t.chunk = s.chunk ∧ t.pcm = s.pcm

/-- R190, R216, and the steps of R133, R135, R137, R185: the engine and the source never write CMD_ERR, RESULT,
DATA_OFFSET, DATA_SIZE or LENGTH. (busReply is the model's record of the bus response, log 6.) -/
def Obligations.EngineLeavesHostRegisters : Prop :=
  ∀ s t : State, ((takeEvent s).1 = .engine ∨ ∃ a, (takeEvent s).1 = .source a) → step s = .next t →
    t.cmdErr = s.cmdErr ∧ t.result = s.result ∧ t.dataOffset = s.dataOffset ∧ t.dataSize = s.dataSize
    ∧ t.length = s.length ∧ t.busReply = s.busReply

/-- R146, R76: the PCM buffer changes only by the engine in BUSY, by a DECODE that enters BUSY, or by reset; in particular
it is read-only while DONE lasts. (That a DECODE which fails with CAPACITY leaves it as it was is the model's reading of
R130 and R185: log 7.) -/
def Obligations.PcmReadOnlyOutsideDecode : Prop :=
  ∀ s t : State, step s = .next t → t.pcm ≠ s.pcm →
    ((takeEvent s).1 = .engine ∧ s.state = .busy ∧ s.phase = .convert)
    ∨ ((takeEvent s).1 = .host (cmdWrite (encode .decode)) ∧ t.state = .busy)
    ∨ (takeEvent s).1 = .reset

/-- R163: CMD_ERR changes only in a step that writes CMD, or by reset. -/
def Obligations.CmdErrChangesOnlyByCommands : Prop :=
  ∀ s t : State, step s = .next t → t.cmdErr ≠ s.cmdErr →
    (∃ w, (takeEvent s).1 = .host (cmdWrite w)) ∨ (takeEvent s).1 = .reset

/-- R30: CAPACITY reads PCM_CAP at all times: no step changes it, and R6's range holds in every state. -/
def Obligations.CapacityReadsPcmCapAlways : Prop :=
  ∀ s : State, (readReg 0x1C s).toNat = s.pcmCap ∧ 1 ≤ s.pcmCap ∧ s.pcmCap ≤ 2 ^ 24
    ∧ ∀ t, step s = .next t → t.pcmCap = s.pcmCap ∧ readReg 0x1C t = readReg 0x1C s

/-- R218: in BUSY exactly one of the engine's two steps and the source's is enabled. Each such step ends the decode or
lowers what is left of it, which an accepted DECODE sets to at most 3 n + 1; a host access leaves it. -/
def Obligations.EnabledStepsMakeProgress : Prop :=
  ∀ s t : State, EngineInv s → s.state = .busy → step s = .next t →
    (((takeEvent s).1 = .engine ∧ s.phase ≠ .wait
        ∨ ∃ a, (takeEvent s).1 = .source a ∧ s.phase = .wait
            ∧ admitsAnswer s.platform.source s.pos.toNat s.reqLen.val a = true) →
      t.state ≠ .busy ∨ stepsLeft t < stepsLeft s)
    ∧ ((∃ a, (takeEvent s).1 = .host a) → stepsLeft t = stepsLeft s)
    ∧ stepsLeft s ≤ 3 * s.length.toNat + 1

/-! ### The result of a decode -/

/-- R139 (safety half), R138, R143, R144: over a source of bytes f, whatever short answers it gives and however the
host's accesses fall between, a decode that ends in DONE or ERROR ends as R139 says: complete when the payload is
there, otherwise TRUNCATED exactly at its last byte; each slot holds the table entry of its own code. -/
def Obligations.DecodeResultOverFile : Prop :=
  ∀ (f : List Byte) (s₀ s t : State) (k : Nat), SourceHolds f s₀ →
    (s₀.state = .idle ∨ s₀.state = .done) → s₀.dataSize.toNat ≤ s₀.pcmCap → exec .decode s₀ = .next s →
    BusyRun k s t → (t.state = .done ∨ t.state = .error) →
    let off := s₀.dataOffset.toNat
    let n := s₀.dataSize.toNat
    if n = 0 ∨ off + n ≤ f.length then
      t.state = .done ∧ t.decErr = .none ∧ t.produced.toNat = n ∧ t.length.toNat = n ∧ Decoded f off n t
    else
      t.state = .error ∧ t.decErr = .truncated ∧ t.produced.toNat = f.length - off ∧ t.length.toNat = n
        ∧ Decoded f off (f.length - off) t

/-- R139 (progress half), R140, R218: under FILE_EXACT, with the whole payload there, the engine and the source alone
bring an accepted decode to DONE in exactly n + 2 ceil(n / 1024) + 1 steps (R218: n conversions, ceil(n / 1024) answers and
one ENG_ISSUE more than answers): it is BUSY after every smaller number of steps. -/
def Obligations.DecodeCompletesWhenDriven : Prop :=
  ∀ (f : List Byte) (s₀ s : State), s₀.platform.source = .fileExact f →
    (s₀.state = .idle ∨ s₀.state = .done) → s₀.dataSize.toNat ≤ s₀.pcmCap → exec .decode s₀ = .next s →
    s₀.dataOffset.toNat + s₀.dataSize.toNat ≤ f.length →
    ∃ t, drive f (s₀.dataSize.toNat + 2 * ((s₀.dataSize.toNat + 1023) / 1024) + 1) s = .next t
      ∧ t.state = .done ∧ t.produced.toNat = s₀.dataSize.toNat
      ∧ Decoded f s₀.dataOffset.toNat s₀.dataSize.toNat t
      ∧ ∀ k, k < s₀.dataSize.toNat + 2 * ((s₀.dataSize.toNat + 1023) / 1024) + 1 →
          ∃ u, drive f k s = .next u ∧ u.state = .busy

/-- R139 (progress half), R140, R144: under FILE_EXACT, with payload bytes missing, the engine and the source alone
bring an accepted decode to ERROR with TRUNCATED, after converting every byte that is there and one request more that
returns zero bytes; it is BUSY after every smaller number of these steps. -/
def Obligations.TruncatedDecodeFailsWhenDriven : Prop :=
  ∀ (f : List Byte) (s₀ s : State), s₀.platform.source = .fileExact f →
    (s₀.state = .idle ∨ s₀.state = .done) → s₀.dataSize.toNat ≤ s₀.pcmCap → exec .decode s₀ = .next s →
    0 < s₀.dataSize.toNat → f.length < s₀.dataOffset.toNat + s₀.dataSize.toNat →
    let a := f.length - s₀.dataOffset.toNat
    ∃ t, drive f (a + 2 * ((a + 1023) / 1024) + 2) s = .next t
      ∧ t.state = .error ∧ t.decErr = .truncated ∧ t.produced.toNat = a
      ∧ Decoded f s₀.dataOffset.toNat a t
      ∧ ∀ k, k < a + 2 * ((a + 1023) / 1024) + 2 → ∃ u, drive f k s = .next u ∧ u.state = .busy

/-- R140: under FILE_EXACT, with the whole payload there, every request of the decode is for whole chunks: the one made
when 1024 i samples are produced is at off + 1024 i, for min(1024, n - 1024 i) bytes. -/
def Obligations.ExactRequestsAreWholeChunks : Prop :=
  ∀ (f : List Byte) (s₀ s t : State) (k : Nat), s₀.platform.source = .fileExact f →
    (s₀.state = .idle ∨ s₀.state = .done) → s₀.dataSize.toNat ≤ s₀.pcmCap → exec .decode s₀ = .next s →
    s₀.dataOffset.toNat + s₀.dataSize.toNat ≤ f.length → BusyRun k s t →
    ∀ p r, outstandingRequest t = some (p, r) →
      ∃ i, t.produced.toNat = 1024 * i ∧ 1024 * i < s₀.dataSize.toNat ∧ p.toNat = s₀.dataOffset.toNat + 1024 * i
        ∧ r.val = min 1024 (s₀.dataSize.toNat - 1024 * i)

/-- R141: two decodes accepted with the same DATA_OFFSET and DATA_SIZE, over sources with the same bytes at the
payload's positions, that end, end in the same STATE with the same PRODUCED and the same samples, whatever else
differs between the two runs. -/
def Obligations.SamePayloadSameResult : Prop :=
  ∀ (f g : List Byte) (s₀ s t u₀ u v : State) (k l : Nat),
    SourceHolds f s₀ → SourceHolds g u₀ →
    (s₀.state = .idle ∨ s₀.state = .done) → (u₀.state = .idle ∨ u₀.state = .done) →
    s₀.dataSize.toNat ≤ s₀.pcmCap → u₀.dataSize.toNat ≤ u₀.pcmCap →
    s₀.dataOffset = u₀.dataOffset → s₀.dataSize = u₀.dataSize →
    (∀ j, j < s₀.dataSize.toNat → f[s₀.dataOffset.toNat + j]? = g[s₀.dataOffset.toNat + j]?) →
    exec .decode s₀ = .next s → exec .decode u₀ = .next u →
    BusyRun k s t → BusyRun l u v →
    (t.state = .done ∨ t.state = .error) → (v.state = .done ∨ v.state = .error) →
    t.state = v.state ∧ t.decErr = v.decErr ∧ t.produced = v.produced
      ∧ ∀ j, j < t.produced.toNat → Memory.read t.pcm j = Memory.read v.pcm j

/-! ### The host's header check -/

/-- R68, R219: a header the host's check accepts has at least 24 bytes and a DATA_SIZE other than the unknown-length
sentinel, and DATA_OFFSET and DATA_SIZE are its bytes 4..7 and 8..11, most significant first. -/
def Obligations.HeaderValuesAreBigEndian : Prop :=
  ∀ (h : List Byte) (off n : Word), checkHeader h = .ok (off, n) →
    24 ≤ h.length ∧ n ≠ 0xFFFFFFFF
    ∧ ∀ i, i < 4 →
      h[4 + i]? = some (off.extractLsb' (8 * (3 - i)) 8) ∧ h[8 + i]? = some (n.extractLsb' (8 * (3 - i)) 8)
end

