-- ==== Sys2Proof/Laws/Encoding.lean ====
section
/-! SUPPORT. The fields of a command word, and the words of the encoder, as numbers. -/

namespace Sys2Proof

theorem opcodeOf_toNat (w : Word) : (opcodeOf w).toNat = w.toNat / 2 ^ 24 := by
  simp only [opcodeOf, BitVec.extractLsb'_toNat, Nat.shiftRight_eq_div_pow]
  omega

theorem opcodeOf_eq_iff (w : Word) {k : Nat} (hk : k < 256) : opcodeOf w = BitVec.ofNat 8 k ↔ w.toNat / 2 ^ 24 = k := by
  rw [← BitVec.toNat_inj, opcodeOf_toNat, BitVec.toNat_ofNat, Nat.mod_eq_of_lt (by omega)]

theorem operand_toNat (w : Word) : (w.extractLsb' 0 24).toNat = w.toNat % 2 ^ 24 := by
  simp [BitVec.extractLsb'_toNat]

theorem codeField_toNat (w : Word) : (w.extractLsb' 0 8).toNat = w.toNat % 2 ^ 8 := by
  simp [BitVec.extractLsb'_toNat]

theorem reservedField_toNat (w : Word) : (w.extractLsb' 8 16).toNat = w.toNat / 2 ^ 8 % 2 ^ 16 := by
  simp [BitVec.extractLsb'_toNat, Nat.shiftRight_eq_div_pow]

theorem encode_lookup_toNat (c : Byte) : (encode (.lookup c)).toNat = 0x01000000 + c.toNat := by
  have h : encode (.lookup c) = 0x01000000#32 + c.setWidth 32 := by
    show 0x01000000#32 ||| c.setWidth 32 = _
    rw [BitVec.add_eq_or_of_and_eq_zero]
    revert c
    decide
  have := c.isLt
  rw [h, BitVec.toNat_add, BitVec.toNat_setWidth, BitVec.toNat_ofNat]
  omega

theorem encode_decode_toNat : (encode .decode).toNat = 0x02000000 := rfl

theorem encode_pcmRead_toNat (index : BitVec 24) : (encode (.pcmRead index)).toNat = 0x03000000 + index.toNat := by
  have h : encode (.pcmRead index) = 0x03000000#32 + index.setWidth 32 := by
    show 0x03000000#32 ||| index.setWidth 32 = _
    rw [BitVec.add_eq_or_of_and_eq_zero]
    ext i hi
    simp only [BitVec.getElem_and, BitVec.getElem_setWidth, BitVec.getElem_zero, Bool.and_eq_false_imp]
    intro h1
    apply BitVec.getLsbD_of_ge
    by_contra hc
    interval_cases i <;> simp at h1
  have := index.isLt
  rw [h, BitVec.toNat_add, BitVec.toNat_setWidth, BitVec.toNat_ofNat]
  omega

end Sys2Proof
end

