-- ==== Sys2Proof/Laws/Memory.lean ====
section
/-! SUPPORT. The laws of the buffers: read after write, and that every operation keeps the canonical form. -/

namespace Sys2Proof.Machine

variable {α : Type}

@[simp] theorem Memory.read_nil (i : Nat) : Memory.read ([] : List (Nat × α)) i = none := rfl

theorem Memory.read_cons (a : Nat) (v : α) (m : List (Nat × α)) (i : Nat) :
    Memory.read ((a, v) :: m) i = if a = i then some v else Memory.read m i := rfl

@[simp] theorem Memory.read_write_same (m : List (Nat × α)) (i : Nat) (v : α) :
    Memory.read (Memory.write m i v) i = some v := by
  induction m with
  | nil => simp [Memory.write, Memory.read]
  | cons c m ih =>
    obtain ⟨a, w⟩ := c
    simp only [Memory.write]
    split
    · simp [Memory.read]
    · split
      · simp [Memory.read]
      · rename_i _ h
        simp [Memory.read_cons, Ne.symm h, ih]

theorem Memory.read_write_other (m : List (Nat × α)) {i j : Nat} (v : α) (h : j ≠ i) :
    Memory.read (Memory.write m i v) j = Memory.read m j := by
  induction m with
  | nil => simp [Memory.write, Memory.read, h.symm]
  | cons c m ih =>
    obtain ⟨a, w⟩ := c
    simp only [Memory.write]
    split
    · simp [Memory.read_cons, h.symm]
    · split
      · rename_i _ e
        simp [Memory.read_cons, h.symm, ← e]
      · simp [Memory.read_cons, ih]

theorem Memory.read_write (m : List (Nat × α)) (i j : Nat) (v : α) :
    Memory.read (Memory.write m i v) j = if j = i then some v else Memory.read m j := by
  split
  · rename_i h; simp [h]
  · rename_i h; exact Memory.read_write_other m v h

@[simp] theorem Memory.read_cleared (i : Nat) : Memory.read (Memory.cleared : List (Nat × α)) i = none := rfl

theorem Memory.mem_of_read {m : List (Nat × α)} {i : Nat} {v : α} (h : Memory.read m i = some v) :
    (i, v) ∈ m := by
  induction m with
  | nil => simp at h
  | cons c m ih =>
    obtain ⟨a, w⟩ := c
    rw [Memory.read_cons] at h
    split at h
    · rename_i e; cases h; simp [e]
    · exact List.mem_cons_of_mem _ (ih h)

theorem Memory.mem_write {m : List (Nat × α)} {i : Nat} {v : α} {c : Nat × α}
    (h : c ∈ Memory.write m i v) : c = (i, v) ∨ c ∈ m := by
  induction m with
  | nil => simpa [Memory.write] using h
  | cons d m ih =>
    obtain ⟨a, w⟩ := d
    simp only [Memory.write] at h
    split at h
    · simpa using h
    · split at h
      · rcases List.mem_cons.1 h with h | h
        · exact .inl h
        · exact .inr (List.mem_cons_of_mem _ h)
      · rcases List.mem_cons.1 h with h | h
        · exact .inr (h ▸ List.mem_cons_self)
        · exact (ih h).imp id (List.mem_cons_of_mem _)

theorem Memory.risingFrom_mono {m : List (Nat × α)} {lo hi : Nat} (h : lo ≤ hi)
    (hm : Memory.risingFrom hi m = true) : Memory.risingFrom lo m = true := by
  cases m with
  | nil => rfl
  | cons c m =>
    obtain ⟨a, w⟩ := c
    simp only [Memory.risingFrom, Bool.and_eq_true, decide_eq_true_eq] at hm ⊢
    exact ⟨by omega, hm.2⟩

theorem Memory.risingFrom_write {m : List (Nat × α)} {lo i : Nat} (v : α) (hi : lo ≤ i)
    (hm : Memory.risingFrom lo m = true) : Memory.risingFrom lo (Memory.write m i v) = true := by
  induction m generalizing lo with
  | nil => simp [Memory.write, Memory.risingFrom, hi]
  | cons c m ih =>
    obtain ⟨a, w⟩ := c
    simp only [Memory.risingFrom, Bool.and_eq_true, decide_eq_true_eq] at hm
    simp only [Memory.write]
    split
    · simp only [Memory.risingFrom, Bool.and_eq_true, decide_eq_true_eq]
      exact ⟨hi, by omega, hm.2⟩
    · split
      · rename_i _ e
        simp only [Memory.risingFrom, Bool.and_eq_true, decide_eq_true_eq]
        exact ⟨hi, e ▸ hm.2⟩
      · simp only [Memory.risingFrom, Bool.and_eq_true, decide_eq_true_eq]
        exact ⟨hm.1, ih (by omega) hm.2⟩

/-- Every memory operation keeps the canonical form: writing one value. -/
theorem Memory.wf_write {m : List (Nat × α)} (i : Nat) (v : α) (hm : Memory.wf m = true) :
    Memory.wf (Memory.write m i v) = true :=
  Memory.risingFrom_write v (Nat.zero_le _) hm

/-- The buffer without values is canonical. -/
theorem Memory.wf_cleared : Memory.wf (Memory.cleared : List (Nat × α)) = true := rfl

/-- Every memory operation keeps the canonical form: taking an answer into the chunk buffer. -/
theorem wf_chunkFill (bs : List Byte) (t : Nat) (c : List Host.Cell) (hc : Memory.wf c = true) :
    Memory.wf (chunkFill bs t c) = true := by
  induction bs generalizing t c with
  | nil => exact hc
  | cons b bs ih => exact ih (t + 1) _ (Memory.wf_write t b hc)

/-- The memory of the reset state is canonical. -/
theorem wf_reset : Memory.wf State.reset.pcm = true ∧ Memory.wf State.reset.chunk = true := ⟨rfl, rfl⟩

theorem Memory.read_lt_none {m : List (Nat × α)} {lo i : Nat} (hm : Memory.risingFrom lo m = true)
    (h : i < lo) : Memory.read m i = none := by
  induction m generalizing lo with
  | nil => rfl
  | cons c m ih =>
    obtain ⟨a, w⟩ := c
    simp only [Memory.risingFrom, Bool.and_eq_true, decide_eq_true_eq] at hm
    rw [Memory.read_cons, if_neg (by omega), ih hm.2 (by omega)]

/-- Two canonical memories that read alike are equal data. -/
theorem Memory.eq_of_read {m n : List (Nat × α)} {lo : Nat} (hm : Memory.risingFrom lo m = true)
    (hn : Memory.risingFrom lo n = true) (h : ∀ i, Memory.read m i = Memory.read n i) : m = n := by
  induction m generalizing lo n with
  | nil =>
    cases n with
    | nil => rfl
    | cons d n => obtain ⟨b, w⟩ := d; simpa [Memory.read_cons] using h b
  | cons c m ih =>
    obtain ⟨a, v⟩ := c
    cases n with
    | nil => simpa [Memory.read_cons] using h a
    | cons d n =>
      obtain ⟨b, w⟩ := d
      simp only [Memory.risingFrom, Bool.and_eq_true, decide_eq_true_eq] at hm hn
      have key : a = b := by
        rcases Nat.lt_trichotomy a b with hab | hab | hab
        · have := h a
          rw [Memory.read_cons, if_pos rfl, Memory.read_cons, if_neg (by omega),
            Memory.read_lt_none hn.2 (by omega)] at this
          simp at this
        · exact hab
        · have := h b
          rw [Memory.read_cons, if_neg (by omega), Memory.read_cons, if_pos rfl,
            Memory.read_lt_none hm.2 (by omega)] at this
          simp at this
      subst key
      have hv := h a
      simp only [Memory.read_cons, if_pos] at hv
      cases hv
      refine congrArg _ (ih hm.2 hn.2 fun i => ?_)
      by_cases hi : i < a + 1
      · rw [Memory.read_lt_none hm.2 hi, Memory.read_lt_none hn.2 hi]
      · have := h i
        simpa [Memory.read_cons, show a ≠ i by omega] using this

/-! ### The chunk buffer -/

theorem read_chunkFill (bs : List Byte) (t : Nat) (c : List Host.Cell) (i : Nat) :
    Memory.read (chunkFill bs t c) i
      = if t ≤ i ∧ i < t + bs.length then bs[i - t]? else Memory.read c i := by
  induction bs generalizing t c with
  | nil => simp [chunkFill, show ¬ (t ≤ i ∧ i < t) by omega]
  | cons b bs ih =>
    rw [chunkFill, ih, Memory.read_write]
    by_cases h1 : i = t
    · simp [h1]
    · by_cases h2 : t + 1 ≤ i ∧ i < t + 1 + bs.length
      · rw [if_pos h2, if_pos (by simp; omega)]
        obtain ⟨k, rfl⟩ : ∃ k, i = t + 1 + k := ⟨i - (t + 1), by omega⟩
        simp [show t + 1 + k - t = k + 1 by omega]
      · rw [if_neg h2, if_neg h1, if_neg (by simp; omega)]

theorem mem_chunkFill {bs : List Byte} {t : Nat} {c : List Host.Cell} {d : Host.Cell}
    (h : d ∈ chunkFill bs t c) : d.1 < t + bs.length ∨ d ∈ c := by
  induction bs generalizing t c with
  | nil => exact .inr h
  | cons b bs ih =>
    rcases ih h with h | h
    · left; simp; omega
    · rcases Memory.mem_write h with h | h
      · left; simp [h]
      · exact .inr h

end Sys2Proof.Machine
end

