-- ==== Sys2Proof/Laws/State.lean ====
section
/-! SUPPORT. One lemma per field for each named update of the state, true by rfl, so that no proof unfolds a
record update. -/

namespace Sys2Proof.Machine

/-! ### acceptResult -/

@[simp] theorem acceptResult_state (v : Word) (s : State) : (acceptResult v s).state = s.state := rfl
@[simp] theorem acceptResult_phase (v : Word) (s : State) : (acceptResult v s).phase = s.phase := rfl
@[simp] theorem acceptResult_decErr (v : Word) (s : State) : (acceptResult v s).decErr = s.decErr := rfl
@[simp] theorem acceptResult_cmdErr (v : Word) (s : State) : (acceptResult v s).cmdErr = .ok := rfl
@[simp] theorem acceptResult_dataOffset (v : Word) (s : State) : (acceptResult v s).dataOffset = s.dataOffset := rfl
@[simp] theorem acceptResult_dataSize (v : Word) (s : State) : (acceptResult v s).dataSize = s.dataSize := rfl
@[simp] theorem acceptResult_result (v : Word) (s : State) : (acceptResult v s).result = v := rfl
@[simp] theorem acceptResult_produced (v : Word) (s : State) : (acceptResult v s).produced = s.produced := rfl
@[simp] theorem acceptResult_length (v : Word) (s : State) : (acceptResult v s).length = s.length := rfl
@[simp] theorem acceptResult_pos (v : Word) (s : State) : (acceptResult v s).pos = s.pos := rfl
@[simp] theorem acceptResult_reqLen (v : Word) (s : State) : (acceptResult v s).reqLen = s.reqLen := rfl
@[simp] theorem acceptResult_chunkLen (v : Word) (s : State) : (acceptResult v s).chunkLen = s.chunkLen := rfl
@[simp] theorem acceptResult_chunkIdx (v : Word) (s : State) : (acceptResult v s).chunkIdx = s.chunkIdx := rfl
@[simp] theorem acceptResult_chunk (v : Word) (s : State) : (acceptResult v s).chunk = s.chunk := rfl
@[simp] theorem acceptResult_pcm (v : Word) (s : State) : (acceptResult v s).pcm = s.pcm := rfl
@[simp] theorem acceptResult_platform (v : Word) (s : State) : (acceptResult v s).platform = s.platform := rfl
@[simp] theorem acceptResult_inputs (v : Word) (s : State) : (acceptResult v s).inputs = s.inputs := rfl
@[simp] theorem acceptResult_choices (v : Word) (s : State) : (acceptResult v s).choices = s.choices := rfl
@[simp] theorem acceptResult_busReply (v : Word) (s : State) : (acceptResult v s).busReply = s.busReply := rfl
@[simp] theorem acceptResult_pcmCap (v : Word) (s : State) : (acceptResult v s).pcmCap = s.pcmCap := rfl

/-! ### reject -/

@[simp] theorem reject_state (c : CmdErr) (s : State) : (reject c s).state = s.state := rfl
@[simp] theorem reject_phase (c : CmdErr) (s : State) : (reject c s).phase = s.phase := rfl
@[simp] theorem reject_decErr (c : CmdErr) (s : State) : (reject c s).decErr = s.decErr := rfl
@[simp] theorem reject_cmdErr (c : CmdErr) (s : State) : (reject c s).cmdErr = c := rfl
@[simp] theorem reject_dataOffset (c : CmdErr) (s : State) : (reject c s).dataOffset = s.dataOffset := rfl
@[simp] theorem reject_dataSize (c : CmdErr) (s : State) : (reject c s).dataSize = s.dataSize := rfl
@[simp] theorem reject_result (c : CmdErr) (s : State) : (reject c s).result = s.result := rfl
@[simp] theorem reject_produced (c : CmdErr) (s : State) : (reject c s).produced = s.produced := rfl
@[simp] theorem reject_length (c : CmdErr) (s : State) : (reject c s).length = s.length := rfl
@[simp] theorem reject_pos (c : CmdErr) (s : State) : (reject c s).pos = s.pos := rfl
@[simp] theorem reject_reqLen (c : CmdErr) (s : State) : (reject c s).reqLen = s.reqLen := rfl
@[simp] theorem reject_chunkLen (c : CmdErr) (s : State) : (reject c s).chunkLen = s.chunkLen := rfl
@[simp] theorem reject_chunkIdx (c : CmdErr) (s : State) : (reject c s).chunkIdx = s.chunkIdx := rfl
@[simp] theorem reject_chunk (c : CmdErr) (s : State) : (reject c s).chunk = s.chunk := rfl
@[simp] theorem reject_pcm (c : CmdErr) (s : State) : (reject c s).pcm = s.pcm := rfl
@[simp] theorem reject_platform (c : CmdErr) (s : State) : (reject c s).platform = s.platform := rfl
@[simp] theorem reject_inputs (c : CmdErr) (s : State) : (reject c s).inputs = s.inputs := rfl
@[simp] theorem reject_choices (c : CmdErr) (s : State) : (reject c s).choices = s.choices := rfl
@[simp] theorem reject_busReply (c : CmdErr) (s : State) : (reject c s).busReply = s.busReply := rfl
@[simp] theorem reject_pcmCap (c : CmdErr) (s : State) : (reject c s).pcmCap = s.pcmCap := rfl

/-! ### raiseDecodeError -/

@[simp] theorem raiseDecodeError_state (c : DecErr) (s : State) : (raiseDecodeError c s).state = .error := rfl
@[simp] theorem raiseDecodeError_phase (c : DecErr) (s : State) : (raiseDecodeError c s).phase = s.phase := rfl
@[simp] theorem raiseDecodeError_decErr (c : DecErr) (s : State) : (raiseDecodeError c s).decErr = c := rfl
@[simp] theorem raiseDecodeError_cmdErr (c : DecErr) (s : State) : (raiseDecodeError c s).cmdErr = s.cmdErr := rfl
@[simp] theorem raiseDecodeError_dataOffset (c : DecErr) (s : State) : (raiseDecodeError c s).dataOffset = s.dataOffset := rfl
@[simp] theorem raiseDecodeError_dataSize (c : DecErr) (s : State) : (raiseDecodeError c s).dataSize = s.dataSize := rfl
@[simp] theorem raiseDecodeError_result (c : DecErr) (s : State) : (raiseDecodeError c s).result = s.result := rfl
@[simp] theorem raiseDecodeError_produced (c : DecErr) (s : State) : (raiseDecodeError c s).produced = s.produced := rfl
@[simp] theorem raiseDecodeError_length (c : DecErr) (s : State) : (raiseDecodeError c s).length = s.length := rfl
@[simp] theorem raiseDecodeError_pos (c : DecErr) (s : State) : (raiseDecodeError c s).pos = s.pos := rfl
@[simp] theorem raiseDecodeError_reqLen (c : DecErr) (s : State) : (raiseDecodeError c s).reqLen = s.reqLen := rfl
@[simp] theorem raiseDecodeError_chunkLen (c : DecErr) (s : State) : (raiseDecodeError c s).chunkLen = s.chunkLen := rfl
@[simp] theorem raiseDecodeError_chunkIdx (c : DecErr) (s : State) : (raiseDecodeError c s).chunkIdx = s.chunkIdx := rfl
@[simp] theorem raiseDecodeError_chunk (c : DecErr) (s : State) : (raiseDecodeError c s).chunk = s.chunk := rfl
@[simp] theorem raiseDecodeError_pcm (c : DecErr) (s : State) : (raiseDecodeError c s).pcm = s.pcm := rfl
@[simp] theorem raiseDecodeError_platform (c : DecErr) (s : State) : (raiseDecodeError c s).platform = s.platform := rfl
@[simp] theorem raiseDecodeError_inputs (c : DecErr) (s : State) : (raiseDecodeError c s).inputs = s.inputs := rfl
@[simp] theorem raiseDecodeError_choices (c : DecErr) (s : State) : (raiseDecodeError c s).choices = s.choices := rfl
@[simp] theorem raiseDecodeError_busReply (c : DecErr) (s : State) : (raiseDecodeError c s).busReply = s.busReply := rfl
@[simp] theorem raiseDecodeError_pcmCap (c : DecErr) (s : State) : (raiseDecodeError c s).pcmCap = s.pcmCap := rfl

/-! ### acceptDecode -/

@[simp] theorem acceptDecode_state (s : State) : (acceptDecode s).state = s.state := rfl
@[simp] theorem acceptDecode_phase (s : State) : (acceptDecode s).phase = s.phase := rfl
@[simp] theorem acceptDecode_decErr (s : State) : (acceptDecode s).decErr = .none := rfl
@[simp] theorem acceptDecode_cmdErr (s : State) : (acceptDecode s).cmdErr = .ok := rfl
@[simp] theorem acceptDecode_dataOffset (s : State) : (acceptDecode s).dataOffset = s.dataOffset := rfl
@[simp] theorem acceptDecode_dataSize (s : State) : (acceptDecode s).dataSize = s.dataSize := rfl
@[simp] theorem acceptDecode_result (s : State) : (acceptDecode s).result = s.result := rfl
@[simp] theorem acceptDecode_produced (s : State) : (acceptDecode s).produced = 0 := rfl
@[simp] theorem acceptDecode_length (s : State) : (acceptDecode s).length = s.length := rfl
@[simp] theorem acceptDecode_pos (s : State) : (acceptDecode s).pos = s.pos := rfl
@[simp] theorem acceptDecode_reqLen (s : State) : (acceptDecode s).reqLen = s.reqLen := rfl
@[simp] theorem acceptDecode_chunkLen (s : State) : (acceptDecode s).chunkLen = s.chunkLen := rfl
@[simp] theorem acceptDecode_chunkIdx (s : State) : (acceptDecode s).chunkIdx = s.chunkIdx := rfl
@[simp] theorem acceptDecode_chunk (s : State) : (acceptDecode s).chunk = s.chunk := rfl
@[simp] theorem acceptDecode_pcm (s : State) : (acceptDecode s).pcm = s.pcm := rfl
@[simp] theorem acceptDecode_platform (s : State) : (acceptDecode s).platform = s.platform := rfl
@[simp] theorem acceptDecode_inputs (s : State) : (acceptDecode s).inputs = s.inputs := rfl
@[simp] theorem acceptDecode_choices (s : State) : (acceptDecode s).choices = s.choices := rfl
@[simp] theorem acceptDecode_busReply (s : State) : (acceptDecode s).busReply = s.busReply := rfl
@[simp] theorem acceptDecode_pcmCap (s : State) : (acceptDecode s).pcmCap = s.pcmCap := rfl

/-! ### failAllocation -/

@[simp] theorem failAllocation_state (s : State) : (failAllocation s).state = .error := rfl
@[simp] theorem failAllocation_phase (s : State) : (failAllocation s).phase = s.phase := rfl
@[simp] theorem failAllocation_decErr (s : State) : (failAllocation s).decErr = .capacity := rfl
@[simp] theorem failAllocation_cmdErr (s : State) : (failAllocation s).cmdErr = s.cmdErr := rfl
@[simp] theorem failAllocation_dataOffset (s : State) : (failAllocation s).dataOffset = s.dataOffset := rfl
@[simp] theorem failAllocation_dataSize (s : State) : (failAllocation s).dataSize = s.dataSize := rfl
@[simp] theorem failAllocation_result (s : State) : (failAllocation s).result = s.result := rfl
@[simp] theorem failAllocation_produced (s : State) : (failAllocation s).produced = s.produced := rfl
@[simp] theorem failAllocation_length (s : State) : (failAllocation s).length = 0 := rfl
@[simp] theorem failAllocation_pos (s : State) : (failAllocation s).pos = s.pos := rfl
@[simp] theorem failAllocation_reqLen (s : State) : (failAllocation s).reqLen = s.reqLen := rfl
@[simp] theorem failAllocation_chunkLen (s : State) : (failAllocation s).chunkLen = s.chunkLen := rfl
@[simp] theorem failAllocation_chunkIdx (s : State) : (failAllocation s).chunkIdx = s.chunkIdx := rfl
@[simp] theorem failAllocation_chunk (s : State) : (failAllocation s).chunk = s.chunk := rfl
@[simp] theorem failAllocation_pcm (s : State) : (failAllocation s).pcm = s.pcm := rfl
@[simp] theorem failAllocation_platform (s : State) : (failAllocation s).platform = s.platform := rfl
@[simp] theorem failAllocation_inputs (s : State) : (failAllocation s).inputs = s.inputs := rfl
@[simp] theorem failAllocation_choices (s : State) : (failAllocation s).choices = s.choices := rfl
@[simp] theorem failAllocation_busReply (s : State) : (failAllocation s).busReply = s.busReply := rfl
@[simp] theorem failAllocation_pcmCap (s : State) : (failAllocation s).pcmCap = s.pcmCap := rfl

/-! ### beginDecode -/

@[simp] theorem beginDecode_state (off : Pos) (n : Word) (s : State) : (beginDecode off n s).state = .busy := rfl
@[simp] theorem beginDecode_phase (off : Pos) (n : Word) (s : State) : (beginDecode off n s).phase = .issue := rfl
@[simp] theorem beginDecode_decErr (off : Pos) (n : Word) (s : State) : (beginDecode off n s).decErr = s.decErr := rfl
@[simp] theorem beginDecode_cmdErr (off : Pos) (n : Word) (s : State) : (beginDecode off n s).cmdErr = s.cmdErr := rfl
@[simp] theorem beginDecode_dataOffset (off : Pos) (n : Word) (s : State) : (beginDecode off n s).dataOffset = s.dataOffset := rfl
@[simp] theorem beginDecode_dataSize (off : Pos) (n : Word) (s : State) : (beginDecode off n s).dataSize = s.dataSize := rfl
@[simp] theorem beginDecode_result (off : Pos) (n : Word) (s : State) : (beginDecode off n s).result = s.result := rfl
@[simp] theorem beginDecode_produced (off : Pos) (n : Word) (s : State) : (beginDecode off n s).produced = s.produced := rfl
@[simp] theorem beginDecode_length (off : Pos) (n : Word) (s : State) : (beginDecode off n s).length = n := rfl
@[simp] theorem beginDecode_pos (off : Pos) (n : Word) (s : State) : (beginDecode off n s).pos = off := rfl
@[simp] theorem beginDecode_reqLen (off : Pos) (n : Word) (s : State) : (beginDecode off n s).reqLen = 0 := rfl
@[simp] theorem beginDecode_chunkLen (off : Pos) (n : Word) (s : State) : (beginDecode off n s).chunkLen = 0 := rfl
@[simp] theorem beginDecode_chunkIdx (off : Pos) (n : Word) (s : State) : (beginDecode off n s).chunkIdx = 0 := rfl
@[simp] theorem beginDecode_chunk (off : Pos) (n : Word) (s : State) : (beginDecode off n s).chunk = s.chunk := rfl
@[simp] theorem beginDecode_pcm (off : Pos) (n : Word) (s : State) : (beginDecode off n s).pcm = Memory.cleared := rfl
@[simp] theorem beginDecode_platform (off : Pos) (n : Word) (s : State) : (beginDecode off n s).platform = s.platform := rfl
@[simp] theorem beginDecode_inputs (off : Pos) (n : Word) (s : State) : (beginDecode off n s).inputs = s.inputs := rfl
@[simp] theorem beginDecode_choices (off : Pos) (n : Word) (s : State) : (beginDecode off n s).choices = s.choices := rfl
@[simp] theorem beginDecode_busReply (off : Pos) (n : Word) (s : State) : (beginDecode off n s).busReply = s.busReply := rfl
@[simp] theorem beginDecode_pcmCap (off : Pos) (n : Word) (s : State) : (beginDecode off n s).pcmCap = s.pcmCap := rfl

/-! ### resetBlock -/

@[simp] theorem resetBlock_state (s : State) : (resetBlock s).state = .idle := rfl
@[simp] theorem resetBlock_phase (s : State) : (resetBlock s).phase = .issue := rfl
@[simp] theorem resetBlock_decErr (s : State) : (resetBlock s).decErr = .none := rfl
@[simp] theorem resetBlock_cmdErr (s : State) : (resetBlock s).cmdErr = .ok := rfl
@[simp] theorem resetBlock_dataOffset (s : State) : (resetBlock s).dataOffset = 0 := rfl
@[simp] theorem resetBlock_dataSize (s : State) : (resetBlock s).dataSize = 0 := rfl
@[simp] theorem resetBlock_result (s : State) : (resetBlock s).result = 0 := rfl
@[simp] theorem resetBlock_produced (s : State) : (resetBlock s).produced = 0 := rfl
@[simp] theorem resetBlock_length (s : State) : (resetBlock s).length = 0 := rfl
@[simp] theorem resetBlock_pos (s : State) : (resetBlock s).pos = 0 := rfl
@[simp] theorem resetBlock_reqLen (s : State) : (resetBlock s).reqLen = 0 := rfl
@[simp] theorem resetBlock_chunkLen (s : State) : (resetBlock s).chunkLen = 0 := rfl
@[simp] theorem resetBlock_chunkIdx (s : State) : (resetBlock s).chunkIdx = 0 := rfl
@[simp] theorem resetBlock_chunk (s : State) : (resetBlock s).chunk = [] := rfl
@[simp] theorem resetBlock_pcm (s : State) : (resetBlock s).pcm = [] := rfl
@[simp] theorem resetBlock_platform (s : State) : (resetBlock s).platform = s.platform := rfl
@[simp] theorem resetBlock_inputs (s : State) : (resetBlock s).inputs = s.inputs := rfl
@[simp] theorem resetBlock_choices (s : State) : (resetBlock s).choices = s.choices := rfl
@[simp] theorem resetBlock_busReply (s : State) : (resetBlock s).busReply = s.busReply := rfl
@[simp] theorem resetBlock_pcmCap (s : State) : (resetBlock s).pcmCap = s.pcmCap := rfl

/-! ### respond -/

@[simp] theorem respond_state (r : BusReply) (s : State) : (respond r s).state = s.state := rfl
@[simp] theorem respond_phase (r : BusReply) (s : State) : (respond r s).phase = s.phase := rfl
@[simp] theorem respond_decErr (r : BusReply) (s : State) : (respond r s).decErr = s.decErr := rfl
@[simp] theorem respond_cmdErr (r : BusReply) (s : State) : (respond r s).cmdErr = s.cmdErr := rfl
@[simp] theorem respond_dataOffset (r : BusReply) (s : State) : (respond r s).dataOffset = s.dataOffset := rfl
@[simp] theorem respond_dataSize (r : BusReply) (s : State) : (respond r s).dataSize = s.dataSize := rfl
@[simp] theorem respond_result (r : BusReply) (s : State) : (respond r s).result = s.result := rfl
@[simp] theorem respond_produced (r : BusReply) (s : State) : (respond r s).produced = s.produced := rfl
@[simp] theorem respond_length (r : BusReply) (s : State) : (respond r s).length = s.length := rfl
@[simp] theorem respond_pos (r : BusReply) (s : State) : (respond r s).pos = s.pos := rfl
@[simp] theorem respond_reqLen (r : BusReply) (s : State) : (respond r s).reqLen = s.reqLen := rfl
@[simp] theorem respond_chunkLen (r : BusReply) (s : State) : (respond r s).chunkLen = s.chunkLen := rfl
@[simp] theorem respond_chunkIdx (r : BusReply) (s : State) : (respond r s).chunkIdx = s.chunkIdx := rfl
@[simp] theorem respond_chunk (r : BusReply) (s : State) : (respond r s).chunk = s.chunk := rfl
@[simp] theorem respond_pcm (r : BusReply) (s : State) : (respond r s).pcm = s.pcm := rfl
@[simp] theorem respond_platform (r : BusReply) (s : State) : (respond r s).platform = s.platform := rfl
@[simp] theorem respond_inputs (r : BusReply) (s : State) : (respond r s).inputs = s.inputs := rfl
@[simp] theorem respond_choices (r : BusReply) (s : State) : (respond r s).choices = s.choices := rfl
@[simp] theorem respond_busReply (r : BusReply) (s : State) : (respond r s).busReply = some r := rfl
@[simp] theorem respond_pcmCap (r : BusReply) (s : State) : (respond r s).pcmCap = s.pcmCap := rfl

/-! ### setDataOffset -/

@[simp] theorem setDataOffset_state (v : Word) (s : State) : (setDataOffset v s).state = s.state := rfl
@[simp] theorem setDataOffset_phase (v : Word) (s : State) : (setDataOffset v s).phase = s.phase := rfl
@[simp] theorem setDataOffset_decErr (v : Word) (s : State) : (setDataOffset v s).decErr = s.decErr := rfl
@[simp] theorem setDataOffset_cmdErr (v : Word) (s : State) : (setDataOffset v s).cmdErr = s.cmdErr := rfl
@[simp] theorem setDataOffset_dataOffset (v : Word) (s : State) : (setDataOffset v s).dataOffset = v := rfl
@[simp] theorem setDataOffset_dataSize (v : Word) (s : State) : (setDataOffset v s).dataSize = s.dataSize := rfl
@[simp] theorem setDataOffset_result (v : Word) (s : State) : (setDataOffset v s).result = s.result := rfl
@[simp] theorem setDataOffset_produced (v : Word) (s : State) : (setDataOffset v s).produced = s.produced := rfl
@[simp] theorem setDataOffset_length (v : Word) (s : State) : (setDataOffset v s).length = s.length := rfl
@[simp] theorem setDataOffset_pos (v : Word) (s : State) : (setDataOffset v s).pos = s.pos := rfl
@[simp] theorem setDataOffset_reqLen (v : Word) (s : State) : (setDataOffset v s).reqLen = s.reqLen := rfl
@[simp] theorem setDataOffset_chunkLen (v : Word) (s : State) : (setDataOffset v s).chunkLen = s.chunkLen := rfl
@[simp] theorem setDataOffset_chunkIdx (v : Word) (s : State) : (setDataOffset v s).chunkIdx = s.chunkIdx := rfl
@[simp] theorem setDataOffset_chunk (v : Word) (s : State) : (setDataOffset v s).chunk = s.chunk := rfl
@[simp] theorem setDataOffset_pcm (v : Word) (s : State) : (setDataOffset v s).pcm = s.pcm := rfl
@[simp] theorem setDataOffset_platform (v : Word) (s : State) : (setDataOffset v s).platform = s.platform := rfl
@[simp] theorem setDataOffset_inputs (v : Word) (s : State) : (setDataOffset v s).inputs = s.inputs := rfl
@[simp] theorem setDataOffset_choices (v : Word) (s : State) : (setDataOffset v s).choices = s.choices := rfl
@[simp] theorem setDataOffset_busReply (v : Word) (s : State) : (setDataOffset v s).busReply = s.busReply := rfl
@[simp] theorem setDataOffset_pcmCap (v : Word) (s : State) : (setDataOffset v s).pcmCap = s.pcmCap := rfl

/-! ### setDataSize -/

@[simp] theorem setDataSize_state (v : Word) (s : State) : (setDataSize v s).state = s.state := rfl
@[simp] theorem setDataSize_phase (v : Word) (s : State) : (setDataSize v s).phase = s.phase := rfl
@[simp] theorem setDataSize_decErr (v : Word) (s : State) : (setDataSize v s).decErr = s.decErr := rfl
@[simp] theorem setDataSize_cmdErr (v : Word) (s : State) : (setDataSize v s).cmdErr = s.cmdErr := rfl
@[simp] theorem setDataSize_dataOffset (v : Word) (s : State) : (setDataSize v s).dataOffset = s.dataOffset := rfl
@[simp] theorem setDataSize_dataSize (v : Word) (s : State) : (setDataSize v s).dataSize = v := rfl
@[simp] theorem setDataSize_result (v : Word) (s : State) : (setDataSize v s).result = s.result := rfl
@[simp] theorem setDataSize_produced (v : Word) (s : State) : (setDataSize v s).produced = s.produced := rfl
@[simp] theorem setDataSize_length (v : Word) (s : State) : (setDataSize v s).length = s.length := rfl
@[simp] theorem setDataSize_pos (v : Word) (s : State) : (setDataSize v s).pos = s.pos := rfl
@[simp] theorem setDataSize_reqLen (v : Word) (s : State) : (setDataSize v s).reqLen = s.reqLen := rfl
@[simp] theorem setDataSize_chunkLen (v : Word) (s : State) : (setDataSize v s).chunkLen = s.chunkLen := rfl
@[simp] theorem setDataSize_chunkIdx (v : Word) (s : State) : (setDataSize v s).chunkIdx = s.chunkIdx := rfl
@[simp] theorem setDataSize_chunk (v : Word) (s : State) : (setDataSize v s).chunk = s.chunk := rfl
@[simp] theorem setDataSize_pcm (v : Word) (s : State) : (setDataSize v s).pcm = s.pcm := rfl
@[simp] theorem setDataSize_platform (v : Word) (s : State) : (setDataSize v s).platform = s.platform := rfl
@[simp] theorem setDataSize_inputs (v : Word) (s : State) : (setDataSize v s).inputs = s.inputs := rfl
@[simp] theorem setDataSize_choices (v : Word) (s : State) : (setDataSize v s).choices = s.choices := rfl
@[simp] theorem setDataSize_busReply (v : Word) (s : State) : (setDataSize v s).busReply = s.busReply := rfl
@[simp] theorem setDataSize_pcmCap (v : Word) (s : State) : (setDataSize v s).pcmCap = s.pcmCap := rfl

/-! ### issueRequest -/

@[simp] theorem issueRequest_state (r : ChunkCount) (s : State) : (issueRequest r s).state = s.state := rfl
@[simp] theorem issueRequest_phase (r : ChunkCount) (s : State) : (issueRequest r s).phase = .wait := rfl
@[simp] theorem issueRequest_decErr (r : ChunkCount) (s : State) : (issueRequest r s).decErr = s.decErr := rfl
@[simp] theorem issueRequest_cmdErr (r : ChunkCount) (s : State) : (issueRequest r s).cmdErr = s.cmdErr := rfl
@[simp] theorem issueRequest_dataOffset (r : ChunkCount) (s : State) : (issueRequest r s).dataOffset = s.dataOffset := rfl
@[simp] theorem issueRequest_dataSize (r : ChunkCount) (s : State) : (issueRequest r s).dataSize = s.dataSize := rfl
@[simp] theorem issueRequest_result (r : ChunkCount) (s : State) : (issueRequest r s).result = s.result := rfl
@[simp] theorem issueRequest_produced (r : ChunkCount) (s : State) : (issueRequest r s).produced = s.produced := rfl
@[simp] theorem issueRequest_length (r : ChunkCount) (s : State) : (issueRequest r s).length = s.length := rfl
@[simp] theorem issueRequest_pos (r : ChunkCount) (s : State) : (issueRequest r s).pos = s.pos := rfl
@[simp] theorem issueRequest_reqLen (r : ChunkCount) (s : State) : (issueRequest r s).reqLen = r := rfl
@[simp] theorem issueRequest_chunkLen (r : ChunkCount) (s : State) : (issueRequest r s).chunkLen = s.chunkLen := rfl
@[simp] theorem issueRequest_chunkIdx (r : ChunkCount) (s : State) : (issueRequest r s).chunkIdx = s.chunkIdx := rfl
@[simp] theorem issueRequest_chunk (r : ChunkCount) (s : State) : (issueRequest r s).chunk = s.chunk := rfl
@[simp] theorem issueRequest_pcm (r : ChunkCount) (s : State) : (issueRequest r s).pcm = s.pcm := rfl
@[simp] theorem issueRequest_platform (r : ChunkCount) (s : State) : (issueRequest r s).platform = s.platform := rfl
@[simp] theorem issueRequest_inputs (r : ChunkCount) (s : State) : (issueRequest r s).inputs = s.inputs := rfl
@[simp] theorem issueRequest_choices (r : ChunkCount) (s : State) : (issueRequest r s).choices = s.choices := rfl
@[simp] theorem issueRequest_busReply (r : ChunkCount) (s : State) : (issueRequest r s).busReply = s.busReply := rfl
@[simp] theorem issueRequest_pcmCap (r : ChunkCount) (s : State) : (issueRequest r s).pcmCap = s.pcmCap := rfl

/-! ### finishDecode -/

@[simp] theorem finishDecode_state (s : State) : (finishDecode s).state = .done := rfl
@[simp] theorem finishDecode_phase (s : State) : (finishDecode s).phase = s.phase := rfl
@[simp] theorem finishDecode_decErr (s : State) : (finishDecode s).decErr = s.decErr := rfl
@[simp] theorem finishDecode_cmdErr (s : State) : (finishDecode s).cmdErr = s.cmdErr := rfl
@[simp] theorem finishDecode_dataOffset (s : State) : (finishDecode s).dataOffset = s.dataOffset := rfl
@[simp] theorem finishDecode_dataSize (s : State) : (finishDecode s).dataSize = s.dataSize := rfl
@[simp] theorem finishDecode_result (s : State) : (finishDecode s).result = s.result := rfl
@[simp] theorem finishDecode_produced (s : State) : (finishDecode s).produced = s.produced := rfl
@[simp] theorem finishDecode_length (s : State) : (finishDecode s).length = s.length := rfl
@[simp] theorem finishDecode_pos (s : State) : (finishDecode s).pos = s.pos := rfl
@[simp] theorem finishDecode_reqLen (s : State) : (finishDecode s).reqLen = s.reqLen := rfl
@[simp] theorem finishDecode_chunkLen (s : State) : (finishDecode s).chunkLen = s.chunkLen := rfl
@[simp] theorem finishDecode_chunkIdx (s : State) : (finishDecode s).chunkIdx = s.chunkIdx := rfl
@[simp] theorem finishDecode_chunk (s : State) : (finishDecode s).chunk = s.chunk := rfl
@[simp] theorem finishDecode_pcm (s : State) : (finishDecode s).pcm = s.pcm := rfl
@[simp] theorem finishDecode_platform (s : State) : (finishDecode s).platform = s.platform := rfl
@[simp] theorem finishDecode_inputs (s : State) : (finishDecode s).inputs = s.inputs := rfl
@[simp] theorem finishDecode_choices (s : State) : (finishDecode s).choices = s.choices := rfl
@[simp] theorem finishDecode_busReply (s : State) : (finishDecode s).busReply = s.busReply := rfl
@[simp] theorem finishDecode_pcmCap (s : State) : (finishDecode s).pcmCap = s.pcmCap := rfl

/-! ### takeAnswer -/

@[simp] theorem takeAnswer_state (bs : List Byte) (s : State) : (takeAnswer bs s).state = s.state := rfl
@[simp] theorem takeAnswer_phase (bs : List Byte) (s : State) : (takeAnswer bs s).phase = .convert := rfl
@[simp] theorem takeAnswer_decErr (bs : List Byte) (s : State) : (takeAnswer bs s).decErr = s.decErr := rfl
@[simp] theorem takeAnswer_cmdErr (bs : List Byte) (s : State) : (takeAnswer bs s).cmdErr = s.cmdErr := rfl
@[simp] theorem takeAnswer_dataOffset (bs : List Byte) (s : State) : (takeAnswer bs s).dataOffset = s.dataOffset := rfl
@[simp] theorem takeAnswer_dataSize (bs : List Byte) (s : State) : (takeAnswer bs s).dataSize = s.dataSize := rfl
@[simp] theorem takeAnswer_result (bs : List Byte) (s : State) : (takeAnswer bs s).result = s.result := rfl
@[simp] theorem takeAnswer_produced (bs : List Byte) (s : State) : (takeAnswer bs s).produced = s.produced := rfl
@[simp] theorem takeAnswer_length (bs : List Byte) (s : State) : (takeAnswer bs s).length = s.length := rfl
@[simp] theorem takeAnswer_pos (bs : List Byte) (s : State) : (takeAnswer bs s).pos = s.pos + BitVec.ofNat 33 bs.length := rfl
@[simp] theorem takeAnswer_reqLen (bs : List Byte) (s : State) : (takeAnswer bs s).reqLen = s.reqLen := rfl
@[simp] theorem takeAnswer_chunkLen (bs : List Byte) (s : State) : (takeAnswer bs s).chunkLen = chunkCount bs.length := rfl
@[simp] theorem takeAnswer_chunkIdx (bs : List Byte) (s : State) : (takeAnswer bs s).chunkIdx = 0 := rfl
@[simp] theorem takeAnswer_chunk (bs : List Byte) (s : State) : (takeAnswer bs s).chunk = chunkFill bs 0 s.chunk := rfl
@[simp] theorem takeAnswer_pcm (bs : List Byte) (s : State) : (takeAnswer bs s).pcm = s.pcm := rfl
@[simp] theorem takeAnswer_platform (bs : List Byte) (s : State) : (takeAnswer bs s).platform = s.platform := rfl
@[simp] theorem takeAnswer_inputs (bs : List Byte) (s : State) : (takeAnswer bs s).inputs = s.inputs := rfl
@[simp] theorem takeAnswer_choices (bs : List Byte) (s : State) : (takeAnswer bs s).choices = s.choices := rfl
@[simp] theorem takeAnswer_busReply (bs : List Byte) (s : State) : (takeAnswer bs s).busReply = s.busReply := rfl
@[simp] theorem takeAnswer_pcmCap (bs : List Byte) (s : State) : (takeAnswer bs s).pcmCap = s.pcmCap := rfl

/-! ### advanceConvert -/

@[simp] theorem advanceConvert_state (m : List (Nat × Sample)) (s : State) : (advanceConvert m s).state = s.state := rfl
@[simp] theorem advanceConvert_phase (m : List (Nat × Sample)) (s : State) : (advanceConvert m s).phase = if s.chunkIdx.val + 1 = s.chunkLen.val then .issue else s.phase := rfl
@[simp] theorem advanceConvert_decErr (m : List (Nat × Sample)) (s : State) : (advanceConvert m s).decErr = s.decErr := rfl
@[simp] theorem advanceConvert_cmdErr (m : List (Nat × Sample)) (s : State) : (advanceConvert m s).cmdErr = s.cmdErr := rfl
@[simp] theorem advanceConvert_dataOffset (m : List (Nat × Sample)) (s : State) : (advanceConvert m s).dataOffset = s.dataOffset := rfl
@[simp] theorem advanceConvert_dataSize (m : List (Nat × Sample)) (s : State) : (advanceConvert m s).dataSize = s.dataSize := rfl
@[simp] theorem advanceConvert_result (m : List (Nat × Sample)) (s : State) : (advanceConvert m s).result = s.result := rfl
@[simp] theorem advanceConvert_produced (m : List (Nat × Sample)) (s : State) : (advanceConvert m s).produced = s.produced + 1 := rfl
@[simp] theorem advanceConvert_length (m : List (Nat × Sample)) (s : State) : (advanceConvert m s).length = s.length := rfl
@[simp] theorem advanceConvert_pos (m : List (Nat × Sample)) (s : State) : (advanceConvert m s).pos = s.pos := rfl
@[simp] theorem advanceConvert_reqLen (m : List (Nat × Sample)) (s : State) : (advanceConvert m s).reqLen = s.reqLen := rfl
@[simp] theorem advanceConvert_chunkLen (m : List (Nat × Sample)) (s : State) : (advanceConvert m s).chunkLen = s.chunkLen := rfl
@[simp] theorem advanceConvert_chunkIdx (m : List (Nat × Sample)) (s : State) : (advanceConvert m s).chunkIdx = chunkCount (s.chunkIdx.val + 1) := rfl
@[simp] theorem advanceConvert_chunk (m : List (Nat × Sample)) (s : State) : (advanceConvert m s).chunk = s.chunk := rfl
@[simp] theorem advanceConvert_pcm (m : List (Nat × Sample)) (s : State) : (advanceConvert m s).pcm = m := rfl
@[simp] theorem advanceConvert_platform (m : List (Nat × Sample)) (s : State) : (advanceConvert m s).platform = s.platform := rfl
@[simp] theorem advanceConvert_inputs (m : List (Nat × Sample)) (s : State) : (advanceConvert m s).inputs = s.inputs := rfl
@[simp] theorem advanceConvert_choices (m : List (Nat × Sample)) (s : State) : (advanceConvert m s).choices = s.choices := rfl
@[simp] theorem advanceConvert_busReply (m : List (Nat × Sample)) (s : State) : (advanceConvert m s).busReply = s.busReply := rfl
@[simp] theorem advanceConvert_pcmCap (m : List (Nat × Sample)) (s : State) : (advanceConvert m s).pcmCap = s.pcmCap := rfl

/-! ### withEvent -/

@[simp] theorem withEvent_state (e : Event) (s : State) : (withEvent e s).state = s.state := rfl
@[simp] theorem withEvent_phase (e : Event) (s : State) : (withEvent e s).phase = s.phase := rfl
@[simp] theorem withEvent_decErr (e : Event) (s : State) : (withEvent e s).decErr = s.decErr := rfl
@[simp] theorem withEvent_cmdErr (e : Event) (s : State) : (withEvent e s).cmdErr = s.cmdErr := rfl
@[simp] theorem withEvent_dataOffset (e : Event) (s : State) : (withEvent e s).dataOffset = s.dataOffset := rfl
@[simp] theorem withEvent_dataSize (e : Event) (s : State) : (withEvent e s).dataSize = s.dataSize := rfl
@[simp] theorem withEvent_result (e : Event) (s : State) : (withEvent e s).result = s.result := rfl
@[simp] theorem withEvent_produced (e : Event) (s : State) : (withEvent e s).produced = s.produced := rfl
@[simp] theorem withEvent_length (e : Event) (s : State) : (withEvent e s).length = s.length := rfl
@[simp] theorem withEvent_pos (e : Event) (s : State) : (withEvent e s).pos = s.pos := rfl
@[simp] theorem withEvent_reqLen (e : Event) (s : State) : (withEvent e s).reqLen = s.reqLen := rfl
@[simp] theorem withEvent_chunkLen (e : Event) (s : State) : (withEvent e s).chunkLen = s.chunkLen := rfl
@[simp] theorem withEvent_chunkIdx (e : Event) (s : State) : (withEvent e s).chunkIdx = s.chunkIdx := rfl
@[simp] theorem withEvent_chunk (e : Event) (s : State) : (withEvent e s).chunk = s.chunk := rfl
@[simp] theorem withEvent_pcm (e : Event) (s : State) : (withEvent e s).pcm = s.pcm := rfl
@[simp] theorem withEvent_platform (e : Event) (s : State) : (withEvent e s).platform = s.platform := rfl
@[simp] theorem withEvent_inputs (e : Event) (s : State) : (withEvent e s).inputs = e :: s.inputs := rfl
@[simp] theorem withEvent_choices (e : Event) (s : State) : (withEvent e s).choices = s.choices := rfl
@[simp] theorem withEvent_busReply (e : Event) (s : State) : (withEvent e s).busReply = s.busReply := rfl
@[simp] theorem withEvent_pcmCap (e : Event) (s : State) : (withEvent e s).pcmCap = s.pcmCap := rfl

/-! ### takeEvent: what it hands on differs from s in inputs and choices only -/

@[simp] theorem takeEvent_state (s : State) : (takeEvent s).2.state = s.state := by
  unfold takeEvent; split <;> rfl
@[simp] theorem takeEvent_phase (s : State) : (takeEvent s).2.phase = s.phase := by
  unfold takeEvent; split <;> rfl
@[simp] theorem takeEvent_decErr (s : State) : (takeEvent s).2.decErr = s.decErr := by
  unfold takeEvent; split <;> rfl
@[simp] theorem takeEvent_cmdErr (s : State) : (takeEvent s).2.cmdErr = s.cmdErr := by
  unfold takeEvent; split <;> rfl
@[simp] theorem takeEvent_dataOffset (s : State) : (takeEvent s).2.dataOffset = s.dataOffset := by
  unfold takeEvent; split <;> rfl
@[simp] theorem takeEvent_dataSize (s : State) : (takeEvent s).2.dataSize = s.dataSize := by
  unfold takeEvent; split <;> rfl
@[simp] theorem takeEvent_result (s : State) : (takeEvent s).2.result = s.result := by
  unfold takeEvent; split <;> rfl
@[simp] theorem takeEvent_produced (s : State) : (takeEvent s).2.produced = s.produced := by
  unfold takeEvent; split <;> rfl
@[simp] theorem takeEvent_length (s : State) : (takeEvent s).2.length = s.length := by
  unfold takeEvent; split <;> rfl
@[simp] theorem takeEvent_pos (s : State) : (takeEvent s).2.pos = s.pos := by
  unfold takeEvent; split <;> rfl
@[simp] theorem takeEvent_reqLen (s : State) : (takeEvent s).2.reqLen = s.reqLen := by
  unfold takeEvent; split <;> rfl
@[simp] theorem takeEvent_chunkLen (s : State) : (takeEvent s).2.chunkLen = s.chunkLen := by
  unfold takeEvent; split <;> rfl
@[simp] theorem takeEvent_chunkIdx (s : State) : (takeEvent s).2.chunkIdx = s.chunkIdx := by
  unfold takeEvent; split <;> rfl
@[simp] theorem takeEvent_chunk (s : State) : (takeEvent s).2.chunk = s.chunk := by
  unfold takeEvent; split <;> rfl
@[simp] theorem takeEvent_pcm (s : State) : (takeEvent s).2.pcm = s.pcm := by
  unfold takeEvent; split <;> rfl
@[simp] theorem takeEvent_platform (s : State) : (takeEvent s).2.platform = s.platform := by
  unfold takeEvent; split <;> rfl
@[simp] theorem takeEvent_busReply (s : State) : (takeEvent s).2.busReply = s.busReply := by
  unfold takeEvent; split <;> rfl
@[simp] theorem takeEvent_pcmCap (s : State) : (takeEvent s).2.pcmCap = s.pcmCap := by
  unfold takeEvent; split <;> rfl

@[simp] theorem takeEvent_withEvent (e : Event) (s : State) : takeEvent (withEvent e s) = (e, s) := rfl

end Sys2Proof.Machine
end

