-- ==== Sys2Proof/Laws/Ops.lean ====
section
/-! SUPPORT. For each shared operation and each meaning, once, everything it can do; and for one step, everything
one agent can do (step_effect). Proofs about steps cite these and unfold nothing. -/

namespace Sys2Proof.Machine

/-! ### Buffer accesses -/

theorem pcmRead_ok {j : Nat} {s : State} {v : Sample} (h : pcmRead j s = .ok v) :
    j < s.pcmCap ∧ Memory.read s.pcm j = some v := by
  unfold pcmRead at h
  split at h
  · split at h
    · rename_i _ _ hr; cases h; exact ⟨by assumption, hr⟩
    · cases h
  · cases h

theorem pcmRead_of_value {j : Nat} {s : State} {v : Sample} (hj : j < s.pcmCap)
    (h : Memory.read s.pcm j = some v) : pcmRead j s = .ok v := by
  simp [pcmRead, hj, h]

theorem pcmWrite_ok {j : Nat} {v : Sample} {s : State} {m : List (Nat × Sample)}
    (h : pcmWrite j v s = .ok m) : j < s.pcmCap ∧ m = Memory.write s.pcm j v := by
  unfold pcmWrite at h
  split at h
  · cases h; exact ⟨by assumption, rfl⟩
  · cases h

theorem chunkRead_ok {t : Nat} {s : State} {b : Byte} (h : chunkRead t s = .ok b) :
    t < chunkBytes ∧ Memory.read s.chunk t = some b := by
  unfold chunkRead at h
  split at h
  · split at h
    · rename_i _ _ hr; cases h; exact ⟨by assumption, hr⟩
    · cases h
  · cases h

theorem chunkRead_of_value {t : Nat} {s : State} {b : Byte} (ht : t < chunkBytes)
    (h : Memory.read s.chunk t = some b) : chunkRead t s = .ok b := by
  simp [chunkRead, ht, h]

theorem chunkCount_val {n : Nat} (h : n ≤ chunkBytes) : (chunkCount n).val = n := by
  simp only [chunkBytes] at h
  simp only [chunkCount, Fin.ofNat]
  omega

theorem pcmCap_pos (s : State) : 1 ≤ s.pcmCap := by
  simp [State.pcmCap, Platform.pcmCap]

theorem pcmCap_le (s : State) : s.pcmCap ≤ 2 ^ 24 := by
  have := s.platform.capPred.isLt
  simp only [State.pcmCap, Platform.pcmCap]
  omega

/-! ### The commands -/

/-- Everything a write to CMD can do (42_host_access.md R163). -/
inductive CmdEffect (s : State) : State → Prop where
  | rejected (c : CmdErr) : CmdEffect s (reject c s)
  | looked (code : Byte) : CmdEffect s (acceptResult (resultOf (lut code)) s)
  | sampled (j : Nat) (v : Sample) (done : s.state = .done) (below : j < s.length.toNat)
      (value : Memory.read s.pcm j = some v) : CmdEffect s (acceptResult (resultOf v) s)
  | allocFailed (ready : s.state = .idle ∨ s.state = .done) (tooBig : s.pcmCap < s.dataSize.toNat) :
      CmdEffect s (failAllocation (acceptDecode s))
  | began (ready : s.state = .idle ∨ s.state = .done) (fits : s.dataSize.toNat ≤ s.pcmCap) :
      CmdEffect s (beginDecode (s.dataOffset.setWidth 33) s.dataSize (acceptDecode s))

theorem ready_iff (s : State) : ¬ (s.state = .busy ∨ s.state = .error) ↔ s.state = .idle ∨ s.state = .done := by
  cases s.state <;> simp

theorem execLookup_next (code : Byte) (s : State) :
    execLookup code s = .next (acceptResult (resultOf (lut code)) s) := rfl

theorem execDecode_busy {s : State} (h : s.state = .busy ∨ s.state = .error) :
    execDecode s = .next (reject .badState s) := by
  simp [execDecode, h]

theorem execDecode_over {s : State} (h : s.state = .idle ∨ s.state = .done)
    (n : s.pcmCap < s.dataSize.toNat) : execDecode s = .next (failAllocation (acceptDecode s)) := by
  unfold execDecode
  rw [if_neg ((ready_iff s).2 h), if_pos (by simpa [sizeOperand] using n)]

theorem execDecode_fits {s : State} (h : s.state = .idle ∨ s.state = .done)
    (n : s.dataSize.toNat ≤ s.pcmCap) :
    execDecode s = .next (beginDecode (s.dataOffset.setWidth 33) s.dataSize (acceptDecode s)) := by
  unfold execDecode
  rw [if_neg ((ready_iff s).2 h), if_neg (by simpa [sizeOperand] using n)]
  rfl

theorem execDecode_effect {s t : State} (h : execDecode s = .next t) : CmdEffect s t := by
  by_cases hs : s.state = .busy ∨ s.state = .error
  · rw [execDecode_busy hs] at h; cases h; exact .rejected _
  · rw [ready_iff] at hs
    by_cases hn : s.pcmCap < s.dataSize.toNat
    · rw [execDecode_over hs hn] at h; cases h; exact .allocFailed hs hn
    · rw [execDecode_fits hs (by omega)] at h; cases h; exact .began hs (by omega)

theorem execPcmRead_badState {index : BitVec 24} {s : State} (h : s.state ≠ .done) :
    execPcmRead index s = .next (reject .badState s) := by
  simp [execPcmRead, h]

theorem indexOperand_toNat (index : BitVec 24) : (indexOperand index).toNat = index.toNat := by
  have := index.isLt
  simp only [indexOperand, BitVec.toNat_setWidth]
  omega

theorem execPcmRead_range {index : BitVec 24} {s : State} (h : s.state = .done)
    (hi : s.length.toNat ≤ index.toNat) : execPcmRead index s = .next (reject .indexRange s) := by
  have : s.length ≤ indexOperand index := by rw [BitVec.le_def, indexOperand_toNat]; exact hi
  simp [execPcmRead, h, this]

theorem execPcmRead_read {index : BitVec 24} {s : State} (h : s.state = .done)
    (hi : index.toNat < s.length.toNat) :
    execPcmRead index s = match pcmRead index.toNat s with
      | .ok v => .next (acceptResult (resultOf v) s)
      | .error r => .fault r := by
  have : ¬ s.length ≤ indexOperand index := by rw [BitVec.le_def, indexOperand_toNat]; omega
  cases hp : pcmRead index.toNat s <;>
    simp only [execPcmRead, h, ne_eq, not_true_eq_false, if_false, this, indexOperand_toNat, hp]

theorem execPcmRead_effect {index : BitVec 24} {s t : State} (h : execPcmRead index s = .next t) :
    CmdEffect s t := by
  by_cases hd : s.state = .done
  · by_cases hi : index.toNat < s.length.toNat
    · rw [execPcmRead_read hd hi] at h
      split at h
      · rename_i v hv; cases h; exact .sampled _ v hd hi (pcmRead_ok hv).2
      · cases h
    · rw [execPcmRead_range hd (by omega)] at h; cases h; exact .rejected _
  · rw [execPcmRead_badState hd] at h; cases h; exact .rejected _

theorem exec_effect {i : Instr} {s t : State} (h : exec i s = .next t) : CmdEffect s t := by
  cases i with
  | lookup code => cases h; exact .looked code
  | decode => exact execDecode_effect h
  | pcmRead index => exact execPcmRead_effect h

theorem executeCmd_effect {w : Word} {s t : State} (h : executeCmd w s = .next t) : CmdEffect s t := by
  unfold executeCmd at h
  split at h
  · cases h; exact .rejected _
  · exact exec_effect h

/-! ### Host accesses -/

/-- Everything an admitted access can do, its response apart (42_host_access.md R161, R162). -/
inductive AccessEffect (s : State) : State → Prop where
  | nothing : AccessEffect s s
  | offset (v : Word) : AccessEffect s (setDataOffset v s)
  | size (v : Word) : AccessEffect s (setDataSize v s)
  | command (t : State) (effect : CmdEffect s t) : AccessEffect s t

theorem writeReg_effect {offset : Nat} {v : Word} {s t : State} (h : writeReg offset v s = .next t) :
    AccessEffect s t := by
  unfold writeReg at h
  split at h
  · exact .command _ (executeCmd_effect h)
  · cases h; exact .offset v
  · cases h; exact .size v
  · cases h; exact .nothing

theorem onNext_next {f : State → State} {o : Host.Outcome State Fault Refusal} {t : State}
    (h : onNext f o = .next t) : ∃ u, o = .next u ∧ t = f u := by
  cases o with
  | next u => cases h; exact ⟨u, rfl, rfl⟩
  | fault r => cases h
  | refused r => cases h

theorem hostAccess_busRead {off : Nat} (h : off ≤ 0xFC) (h4 : off % 4 = 0) (s : State) :
    hostAccess (busRead off) s = .next (respond (.data (readReg off s)) s) := by
  simp [hostAccess, busRead, addressed, admitted, h, h4, show off ≤ 255 by omega]

theorem hostAccess_busWrite {off : Nat} (h : off ≤ 0xFC) (h4 : off % 4 = 0) (v : Word) (s : State) :
    hostAccess (busWrite off v) s = onNext (respond .written) (writeReg off v s) := by
  simp [hostAccess, busWrite, addressed, admitted, h, h4, show off ≤ 255 by omega]

theorem hostAccess_cmdWrite (w : Word) (s : State) :
    hostAccess (cmdWrite w) s = onNext (respond .written) (executeCmd w s) :=
  hostAccess_busWrite (by decide) (by decide) w s

theorem hostAccess_outside {a : BusAccess} (h : 0xFF < a.offset) (s : State) : hostAccess a s = .next s := by
  simp [hostAccess, addressed, h]

theorem hostAccess_unadmitted {a : BusAccess} (h : a.offset ≤ 0xFF) (ha : admitted a = false) (s : State) :
    hostAccess a s = .next (respond .busError s) := by
  simp [hostAccess, addressed, ha, h]

theorem executeCmd_ok {w : Word} {i : Instr} (h : decodeCmd w = .ok i) (s : State) :
    executeCmd w s = exec i s := by
  simp [executeCmd, h]

theorem executeCmd_error {w : Word} {c : CmdErr} (h : decodeCmd w = .error c) (s : State) :
    executeCmd w s = .next (reject c s) := by
  simp [executeCmd, h]

/-- Everything a host access can do: nothing, or one register access and its response. -/
theorem hostAccess_effect {a : BusAccess} {s t : State} (h : hostAccess a s = .next t) :
    t = s ∨ ∃ r u, AccessEffect s u ∧ t = respond r u := by
  unfold hostAccess at h
  split at h
  · cases h; exact .inl rfl
  · split at h
    · cases h; exact .inr ⟨_, _, .nothing, rfl⟩
    · split at h
      · cases h; exact .inr ⟨_, _, .nothing, rfl⟩
      · obtain ⟨u, hu, rfl⟩ := onNext_next h
        exact .inr ⟨_, u, writeReg_effect hu, rfl⟩

/-! ### The engine and the source -/

theorem issueEnabled_iff (s : State) : issueEnabled s = true ↔ s.state = .busy ∧ s.phase = .issue := by
  simp [issueEnabled]

theorem answerEnabled_iff (s : State) : answerEnabled s = true ↔ s.state = .busy ∧ s.phase = .wait := by
  simp [answerEnabled]

theorem convertEnabled_iff (s : State) : convertEnabled s = true ↔ s.state = .busy ∧ s.phase = .convert := by
  simp [convertEnabled]

theorem engConvert_next {s t : State} (h : engConvert s = .next t) :
    ∃ b, s.chunkIdx.val < chunkBytes ∧ Memory.read s.chunk s.chunkIdx.val = some b
      ∧ s.produced.toNat < s.pcmCap
      ∧ t = advanceConvert (Memory.write s.pcm s.produced.toNat (lut b)) s := by
  unfold engConvert at h
  split at h
  · cases h
  · rename_i b hb
    split at h
    · cases h
    · rename_i m hm
      cases h
      obtain ⟨h1, h2⟩ := chunkRead_ok hb
      obtain ⟨h3, rfl⟩ := pcmWrite_ok hm
      exact ⟨b, h1, h2, h3, rfl⟩

theorem engConvert_of_value {s : State} {b : Byte} (hi : s.chunkIdx.val < chunkBytes)
    (hb : Memory.read s.chunk s.chunkIdx.val = some b) (hp : s.produced.toNat < s.pcmCap) :
    engConvert s = .next (advanceConvert (Memory.write s.pcm s.produced.toNat (lut b)) s) := by
  simp [engConvert, chunkRead_of_value hi hb, pcmWrite, hp]

/-- Everything the engine and the source can do to a decode (41_decode.md R133, R135, R137). -/
inductive DecodeEffect (s : State) : State → Prop where
  | finished (enabled : issueEnabled s = true) (all : s.produced = s.length) : DecodeEffect s (finishDecode s)
  | issued (enabled : issueEnabled s = true) (more : s.produced ≠ s.length) :
      DecodeEffect s (issueRequest (chunkCount (requestLength s)) s)
  | failed (enabled : answerEnabled s = true) (code : DecErr)
      (why : (code = .truncated ∧ admitsAnswer s.platform.source s.pos.toNat s.reqLen.val (.bytes []) = true)
        ∨ (code = .sourceFault ∧ s.platform.source = .free)) :
      DecodeEffect s (raiseDecodeError code s)
  | answered (enabled : answerEnabled s = true) (bs : List Byte) (nonempty : bs ≠ [])
      (admitted : admitsAnswer s.platform.source s.pos.toNat s.reqLen.val (.bytes bs) = true) :
      DecodeEffect s (takeAnswer bs s)
  | converted (enabled : convertEnabled s = true) (b : Byte) (index : s.chunkIdx.val < chunkBytes)
      (value : Memory.read s.chunk s.chunkIdx.val = some b) (slot : s.produced.toNat < s.pcmCap) :
      DecodeEffect s (advanceConvert (Memory.write s.pcm s.produced.toNat (lut b)) s)

theorem engineStep_effect {s t : State} (h : engineStep s = .next t) : t = s ∨ DecodeEffect s t := by
  unfold engineStep at h
  split at h
  · rename_i he
    unfold engIssue at h
    split at h
    · cases h; exact .inr (.finished he (by assumption))
    · cases h; exact .inr (.issued he (by assumption))
  · split at h
    · obtain ⟨b, h1, h2, h3, rfl⟩ := engConvert_next h
      exact .inr (.converted (by assumption) b h1 h2 h3)
    · cases h; exact .inl rfl

theorem admitsAnswer_fault {m : SourceModel} {pos r : Nat} (h : admitsAnswer m pos r .fault = true) : m = .free := by
  cases m <;> simp_all [admitsAnswer]

theorem admitsAnswer_length {m : SourceModel} {pos r : Nat} {bs : List Byte}
    (h : admitsAnswer m pos r (.bytes bs) = true) : bs.length ≤ r := by
  cases m with
  | free => simpa [admitsAnswer] using h
  | file f =>
    simp only [admitsAnswer] at h
    split at h
    · simp_all
    · simp only [Bool.and_eq_true, decide_eq_true_eq] at h; omega
  | fileExact f =>
    simp only [admitsAnswer] at h
    split at h
    · simp_all
    · simp only [decide_eq_true_eq] at h
      rw [h, List.length_take]; omega

/-- A source that holds the bytes f answers with the bytes of f at the request's position (R77), and with none
only at or past the end of f (R78). -/
theorem admitsAnswer_holds {f : List Byte} {s : State} {pos r : Nat} {bs : List Byte} (hs : SourceHolds f s)
    (hr : 1 ≤ r) (h : admitsAnswer s.platform.source pos r (.bytes bs) = true) :
    bs.length ≤ f.length - pos ∧ (bs = [] ↔ f.length ≤ pos) ∧ ∀ t, t < bs.length → bs[t]? = f[pos + t]? := by
  have key : ∀ k, bs = (f.drop pos).take k → k ≤ f.length - pos → 1 ≤ k →
      bs.length ≤ f.length - pos ∧ (bs = [] ↔ f.length ≤ pos) ∧ ∀ t, t < bs.length → bs[t]? = f[pos + t]? := by
    intro k hb hk h1
    have hl : bs.length = k := by rw [hb, List.length_take, List.length_drop]; omega
    refine ⟨by omega, ⟨fun e => by simp [e] at hl; omega, fun e => by omega⟩, fun t ht => ?_⟩
    rw [hb, List.getElem?_take_of_lt (by omega), List.getElem?_drop]
  rcases hs with hs | hs <;> rw [hs] at h <;> simp only [admitsAnswer] at h <;> split at h
  · simp only [List.isEmpty_iff] at h; subst h; simp; assumption
  · simp only [Bool.and_eq_true, decide_eq_true_eq] at h
    exact key bs.length h.2 (by omega) h.1.1
  · simp only [List.isEmpty_iff] at h; subst h; simp; assumption
  · simp only [decide_eq_true_eq] at h
    exact key _ h (by omega) (by omega)

theorem sourceStep_effect {a : SourceAnswer} {s t : State} (h : sourceStep a s = .next t) :
    t = s ∨ DecodeEffect s t := by
  unfold sourceStep at h
  split at h
  · rename_i hg
    simp only [Bool.and_eq_true] at hg
    cases h
    right
    match a with
    | .fault => exact .failed hg.1 _ (.inr ⟨rfl, admitsAnswer_fault hg.2⟩)
    | .bytes [] => exact .failed hg.1 _ (.inl ⟨rfl, hg.2⟩)
    | .bytes (b :: bs) => exact .answered hg.1 (b :: bs) (by simp) hg.2
  · cases h; exact .inl rfl

/-! ### The invariants read the block's fields only -/

theorem engineInv_of_eq {s t : State} (h : EngineInv s) (e1 : t.state = s.state) (e2 : t.phase = s.phase)
    (e3 : t.decErr = s.decErr) (e4 : t.produced = s.produced) (e5 : t.length = s.length) (e6 : t.pos = s.pos)
    (e7 : t.reqLen = s.reqLen) (e8 : t.chunkLen = s.chunkLen) (e9 : t.chunkIdx = s.chunkIdx)
    (e10 : t.chunk = s.chunk) (e11 : t.pcm = s.pcm) (e12 : t.pcmCap = s.pcmCap) : EngineInv t := by
  obtain ⟨a, b, c, d, e, f, g, i, j, k⟩ := h
  constructor <;> (try unfold DecodesFrom heldBytes at *) <;>
    simp only [e1, e2, e3, e4, e5, e6, e7, e8, e9, e10, e11, e12] <;> assumption

theorem engineInv_takeEvent {s : State} (h : EngineInv s) : EngineInv (takeEvent s).2 :=
  engineInv_of_eq h (by simp) (by simp) (by simp) (by simp) (by simp) (by simp) (by simp) (by simp) (by simp)
    (by simp) (by simp) (by simp)

theorem storageInv_of_eq {s t : State} (h : StorageInv s) (e1 : t.pcm = s.pcm) (e2 : t.chunk = s.chunk)
    (e3 : t.result = s.result) (e4 : t.pcmCap = s.pcmCap) (e5 : t.state = s.state) (e6 : t.decErr = s.decErr)
    (e7 : t.produced = s.produced) : StorageInv t := by
  obtain ⟨a, b, c, d, e, f, g⟩ := h
  constructor <;> simp only [e1, e2, e3, e4, e5, e6, e7] <;> assumption

/-! ### One step -/

/-- Everything one agent can do (10_state.md R20). -/
inductive AgentEffect (s : State) : State → Prop where
  | nothing : AgentEffect s s
  | host (u : State) (r : BusReply) (effect : AccessEffect s u) : AgentEffect s (respond r u)
  | decode (t : State) (effect : DecodeEffect s t) : AgentEffect s t
  | reset : AgentEffect s (resetBlock s)

theorem agentStep_effect {e : Event} {s t : State} (h : agentStep e s = .next t) : AgentEffect s t := by
  cases e with
  | host a =>
    rcases hostAccess_effect h with rfl | ⟨r, u, hu, rfl⟩
    · exact .nothing
    · exact .host u r hu
  | engine =>
    rcases engineStep_effect h with rfl | ht
    · exact .nothing
    · exact .decode t ht
  | source a =>
    rcases sourceStep_effect h with rfl | ht
    · exact .nothing
    · exact .decode t ht
  | reset => cases h; exact .reset

/-- Everything one step can do: one agent's effect on the state that has taken the next event. -/
theorem step_effect {s t : State} (h : step s = .next t) : AgentEffect (takeEvent s).2 t :=
  agentStep_effect h

/-- A run of k + 1 steps is a step and a run of k. -/
theorem run_succ {s u : State} {k : Nat} (h : step s = .next u) :
    Host.Core.run Sys2Proof.core (k + 1) s = Host.Core.run Sys2Proof.core k u := by
  have h' : Sys2Proof.core.step s = .next u := h
  simp only [Host.Core.run]
  rw [h']

/-- The first step of a run that reaches a state. -/
theorem run_succ_next {s t : State} {k : Nat} (h : Host.Core.run Sys2Proof.core (k + 1) s = .next t) :
    ∃ u, step s = .next u ∧ Host.Core.run Sys2Proof.core k u = .next t := by
  cases hs : step s with
  | next u => exact ⟨u, rfl, by rwa [run_succ hs] at h⟩
  | fault r =>
    have h' : Sys2Proof.core.step s = .fault r := hs
    simp only [Host.Core.run] at h
    rw [h'] at h
    cases h
  | refused r =>
    have h' : Sys2Proof.core.step s = .refused r := hs
    simp only [Host.Core.run] at h
    rw [h'] at h
    cases h

/-- A step whose next event is e. -/
theorem step_withEvent (e : Event) (s : State) : step (withEvent e s) = agentStep e s := rfl

end Sys2Proof.Machine
end

