-- ==== Sys2Proof/Laws/PerInstr.lean ====
section
/-! SUPPORT. The statements made per instruction: the word the encoder writes falls under the instruction's row of
spec/opcode_table.json. -/

namespace Sys2Proof.Laws.EncodedUnderRow

/-- The instruction's word has its row's fixed bits: word & mask = match. -/
def Statement (i : Instr) : Prop := encode i &&& maskOf i = matchOf i

theorem lookup (code : Byte) : Statement (.lookup code) := by
  unfold Statement
  revert code
  decide

theorem decode : Statement .decode := by
  unfold Statement
  decide

theorem pcmRead (index : BitVec 24) : Statement (.pcmRead index) := by
  unfold Statement encode maskOf matchOf
  ext i hi
  by_cases h : i < 24
  · interval_cases i <;> simp
  · have : index.getLsbD i = false := BitVec.getLsbD_of_ge _ _ (by omega)
    simp [this]
    interval_cases i <;> simp

end Sys2Proof.Laws.EncodedUnderRow
end

