-- ==== Sys2Proof/Tests/Slice0.lean ====
section
/-! SUPPORT. Tests against the spec's own vectors (95_test_vectors.md and the worked examples of the rules), and a
witness for the hypotheses of every statement that has some. -/

namespace Sys2Proof.Tests

open Sys2Proof.Machine

/-! ### Small states -/

/-- The source of 95_test_vectors.md P2: a 24-byte header and four codes. -/
def fileP2 : List Byte :=
  [0x2E, 0x73, 0x6E, 0x64, 0, 0, 0, 0x18, 0, 0, 0, 4, 0, 0, 0, 1, 0, 0, 0x1F, 0x40, 0, 0, 0, 1] ++
  [0xFF, 0x7F, 0x00, 0x80]

/-- Reset with the vectors' PCM_CAP = 4096 and SOURCE_MODEL = FILE_EXACT over f. -/
def start (f : List Byte) : State := { State.reset with platform := { capPred := 4095, source := .fileExact f } }

/-- The same with DATA_OFFSET and DATA_SIZE written. -/
def loaded (f : List Byte) (off n : Word) : State := { start f with dataOffset := off, dataSize := n }

/-- After line 3 of P2: BUSY, ISSUE. -/
def issuing : State := { loaded fileP2 24 4 with state := .busy, length := 4, pos := 24 }

/-- After line 4 of P2: BUSY, WAIT. -/
def waiting : State := { issuing with phase := .wait, reqLen := 4 }

/-- After line 6 of P2: BUSY, CONVERT. -/
def converting : State :=
  { waiting with phase := .convert, chunk := [(0, 0xFF), (1, 0x7F), (2, 0x00), (3, 0x80)], chunkLen := 4, pos := 28 }

/-- In line 7 of P2, before its last ENG_CONVERT. -/
def lastCode : State :=
  { converting with produced := 3, chunkIdx := 3, pcm := [(0, 0), (1, 0), (2, 0x8284)] }

/-- Before line 8 of P2. -/
def produced4 : State :=
  { lastCode with phase := .issue, produced := 4, chunkIdx := 4, pcm := [(0, 0), (1, 0), (2, 0x8284), (3, 0x7D7C)] }

/-- After line 8 of P2: DONE. -/
def done4 : State := { produced4 with state := .done }

/-- ERROR with TRUNCATED. -/
def failed : State := { waiting with state := .error, decErr := .truncated }

/-- The next state of an outcome passes a check; a fault or a refusal does not. -/
def nextIs (o : Host.Outcome State Fault Refusal) (p : State → Bool) : Bool :=
  match o with
  | .next t => p t
  | _ => false

/-! ### Decoding: words written out from the encodings of R92 to R94 -/

theorem test_decode_lookup : decodeCmd 0b00000001000000000000000001010101 = .ok (.lookup 0x55) := by decide
theorem test_decode_decode : decodeCmd 0b00000010000000000000000000000000 = .ok .decode := by decide
theorem test_decode_pcmRead : decodeCmd 0b00000011000000000000100111000011 = .ok (.pcmRead 2499) := by decide
theorem test_decode_zero : decodeCmd 0x00000000 = .error .badOpcode := by decide
theorem test_decode_four : decodeCmd 0x04000000 = .error .badOpcode := by decide
theorem test_decode_ones : decodeCmd 0xFFFFFFFF = .error .badOpcode := by decide
theorem test_decode_lookup_reserved : decodeCmd 0x01FFFF00 = .error .reservedBits := by decide
theorem test_decode_decode_reserved : decodeCmd 0x02000001 = .error .reservedBits := by decide
theorem test_encode_lookup : encode (.lookup 0x80) = 0x01000080 := by decide
theorem test_encode_pcmRead : encode (.pcmRead 0x400) = 0x03000400 := by decide
theorem test_table_word : decodeTableWord 32 0x030000FF = some (.pcmRead 0xFF) := by decide
theorem test_table_word_refused : decodeTableWord 32 0x81000000 = none := by decide

/-! ### The checks of WellFormed, each with a line it refuses (R100) -/

theorem test_wf_code : AsmLine.wellFormed (.lookup 255) = true ∧ AsmLine.wellFormed (.lookup 256) = false := by decide
theorem test_wf_index :
    AsmLine.wellFormed (.pcmRead 0xFFFFFF) = true ∧ AsmLine.wellFormed (.pcmRead 0x1000000) = false := by decide
theorem test_wf_imm : AsmLine.wellFormed (.wr (.named .dataSize) 0xFFFFFFFF) = true
    ∧ AsmLine.wellFormed (.wr (.named .dataSize) 0x100000000) = false := by decide
theorem test_wf_offset :
    AsmLine.wellFormed (.rd (.atOffset 0xFF)) = true ∧ AsmLine.wellFormed (.rd (.atOffset 0x100)) = false := by decide
theorem test_wf_write_offset : AsmLine.wellFormed (.wr (.atOffset 0x100) 0) = false := by decide
theorem test_assemble_refuses : assemble (.lookup 256) = none := by decide

/-- R101, in the bus operations of P3 line 1. -/
theorem test_decode_at : (PseudoLine.decodeAt 24 2048).lines.map assemble
    = [some (busWrite 0x08 0x18), some (busWrite 0x0C 0x800), some (busWrite 0x00 0x02000000)] := by decide

/-! ### The table -/

/-- The second table of R112, row by row. -/
def listedTable : List Sample :=
   [0x8284, 0x8684, 0x8A84, 0x8E84, 0x9284, 0x9684, 0x9A84, 0x9E84, 0xA284, 0xA684, 0xAA84, 0xAE84, 0xB284, 0xB684, 0xBA84, 0xBE84] ++
   [0xC184, 0xC384, 0xC584, 0xC784, 0xC984, 0xCB84, 0xCD84, 0xCF84, 0xD184, 0xD384, 0xD584, 0xD784, 0xD984, 0xDB84, 0xDD84, 0xDF84] ++
   [0xE104, 0xE204, 0xE304, 0xE404, 0xE504, 0xE604, 0xE704, 0xE804, 0xE904, 0xEA04, 0xEB04, 0xEC04, 0xED04, 0xEE04, 0xEF04, 0xF004] ++
   [0xF0C4, 0xF144, 0xF1C4, 0xF244, 0xF2C4, 0xF344, 0xF3C4, 0xF444, 0xF4C4, 0xF544, 0xF5C4, 0xF644, 0xF6C4, 0xF744, 0xF7C4, 0xF844] ++
   [0xF8A4, 0xF8E4, 0xF924, 0xF964, 0xF9A4, 0xF9E4, 0xFA24, 0xFA64, 0xFAA4, 0xFAE4, 0xFB24, 0xFB64, 0xFBA4, 0xFBE4, 0xFC24, 0xFC64] ++
   [0xFC94, 0xFCB4, 0xFCD4, 0xFCF4, 0xFD14, 0xFD34, 0xFD54, 0xFD74, 0xFD94, 0xFDB4, 0xFDD4, 0xFDF4, 0xFE14, 0xFE34, 0xFE54, 0xFE74] ++
   [0xFE8C, 0xFE9C, 0xFEAC, 0xFEBC, 0xFECC, 0xFEDC, 0xFEEC, 0xFEFC, 0xFF0C, 0xFF1C, 0xFF2C, 0xFF3C, 0xFF4C, 0xFF5C, 0xFF6C, 0xFF7C] ++
   [0xFF88, 0xFF90, 0xFF98, 0xFFA0, 0xFFA8, 0xFFB0, 0xFFB8, 0xFFC0, 0xFFC8, 0xFFD0, 0xFFD8, 0xFFE0, 0xFFE8, 0xFFF0, 0xFFF8, 0x0000] ++
   [0x7D7C, 0x797C, 0x757C, 0x717C, 0x6D7C, 0x697C, 0x657C, 0x617C, 0x5D7C, 0x597C, 0x557C, 0x517C, 0x4D7C, 0x497C, 0x457C, 0x417C] ++
   [0x3E7C, 0x3C7C, 0x3A7C, 0x387C, 0x367C, 0x347C, 0x327C, 0x307C, 0x2E7C, 0x2C7C, 0x2A7C, 0x287C, 0x267C, 0x247C, 0x227C, 0x207C] ++
   [0x1EFC, 0x1DFC, 0x1CFC, 0x1BFC, 0x1AFC, 0x19FC, 0x18FC, 0x17FC, 0x16FC, 0x15FC, 0x14FC, 0x13FC, 0x12FC, 0x11FC, 0x10FC, 0x0FFC] ++
   [0x0F3C, 0x0EBC, 0x0E3C, 0x0DBC, 0x0D3C, 0x0CBC, 0x0C3C, 0x0BBC, 0x0B3C, 0x0ABC, 0x0A3C, 0x09BC, 0x093C, 0x08BC, 0x083C, 0x07BC] ++
   [0x075C, 0x071C, 0x06DC, 0x069C, 0x065C, 0x061C, 0x05DC, 0x059C, 0x055C, 0x051C, 0x04DC, 0x049C, 0x045C, 0x041C, 0x03DC, 0x039C] ++
   [0x036C, 0x034C, 0x032C, 0x030C, 0x02EC, 0x02CC, 0x02AC, 0x028C, 0x026C, 0x024C, 0x022C, 0x020C, 0x01EC, 0x01CC, 0x01AC, 0x018C] ++
   [0x0174, 0x0164, 0x0154, 0x0144, 0x0134, 0x0124, 0x0114, 0x0104, 0x00F4, 0x00E4, 0x00D4, 0x00C4, 0x00B4, 0x00A4, 0x0094, 0x0084] ++
   [0x0078, 0x0070, 0x0068, 0x0060, 0x0058, 0x0050, 0x0048, 0x0040, 0x0038, 0x0030, 0x0028, 0x0020, 0x0018, 0x0010, 0x0008, 0x0000]

theorem test_lut_is_listed : ∀ i : Byte, listedTable[i.toNat]? = some (lut i) := by decide

/-! ### The commands -/

/-- R118's worked example. -/
theorem test_lookup_min : nextIs (step ((start []).withFetchWord 32 0x01000000))
    (fun t => t.result == 0xFFFF8284 && t.cmdErr == .ok) = true := by decide
/-- P3 line 10: LOOKUP in ERROR. -/
theorem test_lookup_in_error : nextIs (step (failed.withFetchWord 32 0x010000E7))
    (fun t => t.result == 0x00000104 && statusWord t == 0x00000013) = true := by decide
/-- R130's worked example. -/
theorem test_decode_starts : nextIs (step ((loaded fileP2 24 4).withFetchWord 32 0x02000000))
    (fun t => statusWord t == 1 && t.length == 4 && t.produced == 0 && t.pos == 24) = true := by decide
/-- R130's corner case, R217: a shorter DECODE in DONE discards all four samples. -/
theorem test_decode_discards : nextIs (step ({ done4 with dataSize := 2 }.withFetchWord 32 0x02000000))
    (fun t => t.length == 2 && t.pcm == []) = true := by decide
/-- 95_test_vectors.md 2.4: 4097 samples do not fit. -/
theorem test_decode_capacity : nextIs (step ((loaded [] 24 4097).withFetchWord 32 0x02000000))
    (fun t => statusWord t == 0x23 && t.length == 0) = true := by decide
/-- 95_test_vectors.md 2.7. -/
theorem test_pcm_read_sample : nextIs (step (done4.withFetchWord 32 0x03000002))
    (fun t => t.result == 0xFFFF8284 && t.cmdErr == .ok) = true := by decide
/-- P2 lines 14 and 15. -/
theorem test_pcm_read_range : nextIs (step (done4.withFetchWord 32 0x03000004))
    (fun t => statusWord t == 0x402 && t.result == 0) = true := by decide

/-- P3 line 8. -/
theorem test_decode_in_error : nextIs (step (failed.withFetchWord 32 0x02000000))
    (fun t => statusWord t == 0x313) = true := by decide
/-- P1 lines 6 to 8. -/
theorem test_reserved_bits : nextIs (step ((start []).withFetchWord 32 0x01000155))
    (fun t => statusWord t == 0x200 && t.result == 0) = true := by decide
/-- A command runs as the first step after reset, on every platform. -/
theorem test_first_after_reset : nextIs (step (State.reset.withFetchWord 32 0x010000AA))
    (fun t => t.result == 0x000014FC) = true := by decide
theorem test_first_decode_after_reset : nextIs (step (State.reset.withFetchWord 32 0x02000000))
    (fun t => statusWord t == 1) = true := by decide

/-! ### Host accesses (95_test_vectors.md 2.8) -/

theorem test_read_capacity : nextIs (hostAccess (busRead 0x1C) (start []))
    (fun t => t.busReply == some (.data 0x1000)) = true := by decide
theorem test_read_byte : nextIs (hostAccess ⟨0x04, 8, .read⟩ (start []))
    (fun t => t.busReply == some .busError) = true := by decide
theorem test_write_result_ignored : nextIs (hostAccess (busWrite 0x10 7) (start []))
    (fun t => t.result == 0 && t.cmdErr == .ok) = true := by decide
theorem test_write_cmd_half : nextIs (hostAccess ⟨0x00, 16, .write 0⟩ (start []))
    (fun t => t.busReply == some .busError && t.cmdErr == .ok) = true := by decide

/-! ### The engine and the source -/

/-- R133's worked example. -/
theorem test_issue_last_request :
    (engIssue { issuing with length := 2500, produced := 2048, pos := 2072 }).reqLen = 452 := by decide
/-- P2 line 6. -/
theorem test_answer : nextIs (step (withEvent (.source (.bytes [0xFF, 0x7F, 0x00, 0x80])) waiting))
    (fun t => statusWord t == 9 && t.pos == 28 && t.chunk == converting.chunk) = true := by decide
/-- FILE_EXACT admits no short answer: the event has no effect. -/
theorem test_answer_not_admitted : nextIs (step (withEvent (.source (.bytes [0xFF])) waiting))
    (fun t => t == waiting) = true := by decide
/-- R137's worked example. -/
theorem test_convert : nextIs (engConvert { issuing with phase := .convert, chunk := [(0, 0x00)], chunkLen := 4 })
    (fun t => t.pcm == [(0, 0x8284)] && t.produced == 1 && t.chunkIdx == 1 && t.phase == .convert) = true := by decide
/-- P2 line 7, the last code. -/
theorem test_convert_last : nextIs (step (withEvent .engine lastCode)) (fun t => t == produced4) = true := by decide
/-- P2 line 8. -/
theorem test_issue_done : nextIs (step (withEvent .engine produced4)) (fun t => statusWord t == 2) = true := by decide
/-- 95_test_vectors.md 2.9. -/
theorem test_reset_in_error : nextIs (step (withEvent .reset failed))
    (fun t => statusWord t == 0 && t.length == 0 && t.dataSize == 0) = true := by decide
/-- R68 and 95_test_vectors.md 1.5. -/
theorem test_header : checkHeader fileP2 = .ok (24, 4) := by decide
/-- 95_test_vectors.md 1.4: a short header. -/
theorem test_header_short : checkHeader (fileP2.take 23) = .error .format := by decide

/-! ### Witnesses: states and operands that meet the hypotheses of the statements -/

theorem inv_start (f : List Byte) : EngineInv (start f) := by
  constructor <;> simp [start, State.reset]

theorem inv_converting : EngineInv converting := by
  refine ⟨by decide, by decide, by decide, by decide, fun j h => absurd h (Nat.not_lt_zero j),
    fun _ => ⟨24, rfl⟩, by decide, by decide, by decide, fun _ _ t _ h => ?_⟩
  have h : t < 4 := h
  interval_cases t <;> exact ⟨_, rfl⟩

theorem inv_lastCode : EngineInv lastCode := by
  refine ⟨by decide, by decide, by decide, by decide, fun j h => ?_,
    fun _ => ⟨24, rfl⟩, by decide, by decide, by decide, fun _ _ t h' h => ?_⟩
  · have h : j < 3 := h
    interval_cases j <;> exact ⟨_, rfl⟩
  · have h : t < 4 := h
    have h' : 3 ≤ t := h'
    interval_cases t
    exact ⟨_, rfl⟩

theorem inv_done4 : EngineInv done4 := by
  refine ⟨by decide, by decide, by decide, by decide, fun j h => ?_,
    fun h => absurd h (by decide), by decide, by decide, by decide, fun h _ => absurd h (by decide)⟩
  have h : j < 4 := h
  interval_cases j <;> exact ⟨_, rfl⟩

theorem inv_issuing : EngineInv issuing := by
  refine ⟨by decide, by decide, by decide, by decide, fun j h => absurd h (Nat.not_lt_zero j),
    fun _ => ⟨24, rfl⟩, by decide, by decide, by decide, fun _ h => absurd h (by decide)⟩

theorem inv_waiting : EngineInv waiting := by
  refine ⟨by decide, by decide, by decide, by decide, fun j h => absurd h (Nat.not_lt_zero j),
    fun _ => ⟨24, rfl⟩, by decide, by decide, by decide, fun _ h => absurd h (by decide)⟩

theorem storage_start (f : List Byte) : StorageInv (start f) :=
  ⟨rfl, by simp [start, State.reset], by simp [start, State.reset], .inr fun _ _ => rfl, rfl, by simp [start, State.reset],
    ⟨0x7F, by simp only [start, State.reset]; decide⟩⟩

/-- DecodeEncodeExact: both sides at once. -/
theorem witness_DecodeEncodeExact : decodeCmd 0x030000FF = .ok (.pcmRead 0xFF)
    ∧ (0x030000FF : Word) = encode (.pcmRead 0xFF) := by decide

/-- IllegalWordsChangeOnlyCmdErr: 0x00000000, 0x04000000 and 0xFFFFFFFF for the first clause, 0x01000100 and 0x02000001
for the second. -/
theorem witness_IllegalWords :
    (∀ w ∈ [0x00000000, 0x04000000, 0xFFFFFFFF], w / 2 ^ 24 ≠ 1 ∧ w / 2 ^ 24 ≠ 2 ∧ w / 2 ^ 24 ≠ 3)
    ∧ (0x01000100 / 2 ^ 24 = 1 ∧ 0x01000100 / 2 ^ 8 % 2 ^ 16 ≠ 0)
    ∧ (0x02000001 / 2 ^ 24 = 2 ∧ 0x02000001 % 2 ^ 24 ≠ 0) := by decide

/-- AssemblerRefusesRatherThanTruncates: the operands at both sides of each bound. -/
theorem witness_Assembler : assemble (.lookup 255) = some (busWrite 0 0x010000FF) ∧ assemble (.lookup 256) = none
    ∧ assemble (.pcmRead 0xFFFFFF) = some (busWrite 0 0x03FFFFFF) ∧ assemble (.pcmRead 0x1000000) = none := by decide

/-- StepRunsDecodedCommand. -/
theorem witness_StepRuns : takeEvent (done4.withFetchWord 32 0x03000002) = (.host (cmdWrite 0x03000002), done4)
    ∧ decodeCmd 0x03000002 = .ok (.pcmRead 2) := by decide

/-- RegisterReadsOfWindow and RegisterWritesOfWindow: the reserved offsets at both ends, and a read-only one. -/
theorem witness_WindowOffsets : (∀ off ∈ [0x20, 0xFC], 0x20 ≤ off ∧ off ≤ 0xFC ∧ off % 4 = 0)
    ∧ (0x04 ≤ 0xFC ∧ 0x04 % 4 = 0 ∧ 0x04 ≠ 0x00 ∧ 0x04 ≠ 0x08 ∧ 0x04 ≠ 0x0C) := by decide

/-- UnadmittedAccessChangesNothing: a byte access, an odd offset at the window's end, and the first offset
outside. -/
theorem witness_Unadmitted : ((⟨0x00, 8, .read⟩ : BusAccess).width ≠ 32 ∧ 0x00 ≤ 0xFF)
    ∧ ((⟨0xFF, 32, .read⟩ : BusAccess).offset % 4 ≠ 0 ∧ 0xFF ≤ 0xFF)
    ∧ 0xFF < (⟨0x100, 32, .read⟩ : BusAccess).offset := by decide

/-- LutMagnitudeOrder: k = 127, k = 0, neighbours across a segment's end, and two codes of one sign. -/
theorem witness_LutOrder : (~~~(0x80 : Byte) &&& 0x7F).toNat = 127 ∧ (~~~(0x7F : Byte) &&& 0x7F).toNat = 0
    ∧ (~~~(0xEF : Byte) &&& 0x7F).toNat = (~~~(0xF0 : Byte) &&& 0x7F).toNat + 1
    ∧ (0x00 : Byte).getLsbD 7 = (0x7F : Byte).getLsbD 7 := by decide

/-- DecodeAcceptedStartsDecode: in IDLE with DATA_SIZE = 0 and = PCM_CAP, and in DONE. -/
theorem witness_DecodeAccepted :
    ((loaded [] 0 0).state = .idle ∧ (loaded [] 0 0).dataSize.toNat ≤ (loaded [] 0 0).pcmCap)
    ∧ ((loaded [] 0 4096).state = .idle ∧ (loaded [] 0 4096).dataSize.toNat = (loaded [] 0 4096).pcmCap)
    ∧ (done4.state = .done ∧ done4.dataSize.toNat ≤ done4.pcmCap) := by decide

/-- DecodeTooLargeRaisesCapacity at PCM_CAP + 1, and UnknownLengthAlwaysFails. -/
theorem witness_DecodeTooLarge :
    ((loaded [] 0 4097).state = .idle ∧ (loaded [] 0 4097).pcmCap < (loaded [] 0 4097).dataSize.toNat)
    ∧ ((loaded [] 0 0xFFFFFFFF).state = .idle ∧ (loaded [] 0 0xFFFFFFFF).dataSize = 0xFFFFFFFF) := by decide

/-- DecodeRejectedInBusyAndError. -/
theorem witness_DecodeRejected : issuing.state = .busy ∧ failed.state = .error := by decide

/-- PcmReadByStateAndIndex: outside DONE; in DONE at LENGTH; in DONE at LENGTH - 1 with the invariants. -/
theorem witness_PcmRead : issuing.state ≠ .done ∧ (done4.state = .done ∧ done4.length.toNat ≤ (4 : BitVec 24).toNat)
    ∧ (EngineInv done4 ∧ done4.state = .done ∧ (3 : BitVec 24).toNat < done4.length.toNat) :=
  ⟨by decide, by decide, inv_done4, by decide, by decide⟩

/-- IssueRequestsWhatRemains: the buffer complete, and not. -/
theorem witness_Issue : (produced4.state = .busy ∧ produced4.phase = .issue ∧ produced4.produced = produced4.length)
    ∧ (issuing.state = .busy ∧ issuing.phase = .issue ∧ issuing.produced.toNat < issuing.length.toNat) := by decide

/-- waiting over another source. -/
def waitingOn (m : SourceModel) : State := { waiting with platform := { capPred := 4095, source := m } }

/-- AnswerFillsChunk: over FILE_EXACT an answer as long as the request; over FILE and FREE one byte and the whole
request, of the file's bytes over FILE. -/
theorem witness_Answer : waiting.state = .busy ∧ waiting.phase = .wait
    ∧ (∀ m ∈ [.free, .file fileP2, .fileExact fileP2],
      admitsAnswer (waitingOn m).platform.source waiting.pos.toNat waiting.reqLen.val
        (.bytes [0xFF, 0x7F, 0x00, 0x80]) = true)
    ∧ ((waitingOn .free).platform.source = .free
      ∧ admitsAnswer (waitingOn .free).platform.source waiting.pos.toNat waiting.reqLen.val (.bytes [0x55]) = true)
    ∧ ((waitingOn (.file fileP2)).platform.source = .file fileP2
      ∧ admitsAnswer (waitingOn (.file fileP2)).platform.source waiting.pos.toNat waiting.reqLen.val
          (.bytes [0xFF]) = true) := by decide

/-- AnswerErrorsEnterError: at the end of the source, just before it, and over a FREE source. -/
theorem witness_AnswerErrors :
    (admitsAnswer (waiting.platform.source) 28 4 (.bytes []) = true ∧ { waiting with pos := 28 }.phase = .wait)
    ∧ (SourceHolds fileP2 { waiting with pos := 27 } ∧ 1 ≤ waiting.reqLen.val
      ∧ admitsAnswer (waiting.platform.source) 27 4 (.bytes []) = false)
    ∧ ((waitingOn .free).platform.source = .free ∧ (waitingOn .free).state = .busy
      ∧ (waitingOn .free).phase = .wait) :=
  ⟨by decide, ⟨.inr rfl, by decide, by decide⟩, by decide⟩

/-- ConvertWritesOneSample: the first and the last byte of a chunk. -/
theorem witness_Convert : (EngineInv converting ∧ converting.state = .busy ∧ converting.phase = .convert)
    ∧ (EngineInv lastCode ∧ lastCode.chunkIdx.val + 1 = lastCode.chunkLen.val) :=
  ⟨⟨inv_converting, by decide, by decide⟩, inv_lastCode, by decide⟩

/-- DisabledAgentsChangeNothing: each ground of each clause. -/
theorem witness_Disabled : done4.state ≠ .busy ∧ waiting.phase = .wait ∧ issuing.phase ≠ .wait
    ∧ admitsAnswer waiting.platform.source waiting.pos.toNat waiting.reqLen.val .fault = false := by decide

/-- OneRequestOutstanding. -/
theorem witness_OneRequest : outstandingRequest waiting = some (24, 4)
    ∧ nextIs (step (withEvent (.host (busRead 4)) waiting)) (fun t => outstandingRequest t == some (24, 4)) = true := by
  decide

/-- EngineInvKept, StorageInvKept and InvariantStatesNeverStop: a state with both invariants and its step. -/
theorem witness_Invariants : EngineInv (start []) ∧ StorageInv (start [])
    ∧ step (withEvent .engine (start [])) = .next (start []) :=
  ⟨inv_start [], storage_start [], rfl⟩

/-- EngineInvKept where the decode runs, with the off it keeps, and where it starts. -/
theorem witness_InvariantsBusy : (EngineInv issuing ∧ EngineInv waiting ∧ EngineInv converting)
    ∧ (DecodesFrom 24 issuing ∧ DecodesFrom 24 waiting ∧ DecodesFrom 24 converting)
    ∧ (EngineInv done4 ∧ done4.state ≠ .busy
      ∧ nextIs (step (withEvent (.host (cmdWrite (encode .decode))) done4))
          (fun t => t.state == .busy && t.pos == 24) = true) :=
  ⟨⟨inv_issuing, inv_waiting, inv_converting⟩, ⟨rfl, rfl, rfl⟩, inv_done4, by decide, by decide⟩

/-- StateChangesOnlyAsListed: one change of each kind. -/
theorem witness_StateChanges :
    nextIs (step (withEvent .reset failed)) (fun t => t.state == .idle) = true
    ∧ nextIs (step (withEvent (.host (cmdWrite (encode .decode))) done4)) (fun t => t.state == .busy) = true
    ∧ nextIs (step (withEvent (.host (cmdWrite (encode .decode))) (loaded [] 0 4097))) (fun t => t.state == .error) = true
    ∧ nextIs (step (withEvent .engine produced4)) (fun t => t.state == .done) = true
    ∧ nextIs (step (withEvent (.source (.bytes [])) { waiting with pos := 28 })) (fun t => t.state == .error) = true := by
  decide

/-- HostCannotDisturbRunningDecode and the second clause of EnabledStepsMakeProgress: a DECODE sent while BUSY. -/
theorem witness_HostInBusy : issuing.state = .busy ∧ EngineInv issuing
    ∧ (takeEvent (withEvent (.host (cmdWrite (encode .decode))) issuing)).1 = .host (cmdWrite (encode .decode))
    ∧ nextIs (step (withEvent (.host (cmdWrite (encode .decode))) issuing)) (fun t => t.cmdErr == .badState) = true :=
  ⟨by decide, inv_issuing, by decide, by decide⟩

/-- EngineLeavesHostRegisters and the first clause of EnabledStepsMakeProgress: the engine in ISSUE and CONVERT, the
source in WAIT. -/
theorem witness_AgentsStep : EngineInv issuing ∧ EngineInv converting ∧ EngineInv waiting
    ∧ (takeEvent (withEvent .engine issuing)).1 = .engine ∧ issuing.phase ≠ .wait ∧ converting.phase ≠ .wait
    ∧ nextIs (step (withEvent .engine issuing)) (fun t => t == waiting) = true
    ∧ nextIs (step (withEvent .engine converting)) (fun t => t.produced == 1) = true
    ∧ nextIs (step (withEvent (.source (.bytes [0xFF, 0x7F, 0x00, 0x80])) waiting)) (fun t => t == converting) = true :=
  ⟨inv_issuing, inv_converting, inv_waiting, by decide, by decide, by decide, by decide, by decide, by decide⟩

/-- PcmReadOnlyOutsideDecode: a step of each kind that changes the buffer. -/
theorem witness_PcmChanges :
    nextIs (step (withEvent .engine lastCode)) (fun t => t.pcm != lastCode.pcm) = true
    ∧ nextIs (step (withEvent (.host (cmdWrite (encode .decode))) done4)) (fun t => t.pcm != done4.pcm) = true
    ∧ nextIs (step (withEvent .reset done4)) (fun t => t.pcm != done4.pcm) = true := by decide

/-- CmdErrChangesOnlyByCommands: a rejected command, and a reset after it. -/
theorem witness_CmdErrChanges :
    nextIs (step (withEvent (.host (cmdWrite 0)) (start []))) (fun t => t.cmdErr == .badOpcode) = true
    ∧ nextIs (step (withEvent .reset { start [] with cmdErr := .badState })) (fun t => t.cmdErr == .ok) = true := by decide

/-- CapacityReadsPcmCapAlways: a state that steps. -/
theorem witness_Capacity : nextIs (step (withEvent .reset done4)) (fun t => readReg 0x1C t == 4096) = true := by decide

/-- ExpandAnswersTableEntry: the last code. -/
theorem witness_Expand : (255 : Nat) ≤ 255 ∧ (PseudoLine.expand 255).lines.mapM assemble
    = some [busWrite 0 0x010000FF, busRead 0x10] := by decide

/-! A decode of one sample and one of a missing sample, for the statements on the result of a decode. -/

/-- An accepted decode of n samples at position 0 over f, with the events es to come. -/
def begun (f : List Byte) (n : Word) (es : List Event) : State :=
  { loaded f 0 n with inputs := es, state := .busy, length := n }

theorem begun_accepted (f : List Byte) (n : Word) (es : List Event) (h : n.toNat ≤ 4096) :
    exec .decode { loaded f 0 n with inputs := es } = .next (begun f n es) := by
  rw [show exec .decode { loaded f 0 n with inputs := es } = execDecode { loaded f 0 n with inputs := es } from rfl,
    execDecode_fits (.inl rfl) h]
  rfl

def oneSample : List Event := [.engine, .source (.bytes [0x00]), .engine, .engine]
def noSample : List Event := [.engine, .source (.bytes [])]

/-- The run passes BUSY states only before step k. -/
def busyBefore (k : Nat) (s : State) : Bool :=
  (List.range k).all fun i => nextIs (Host.Core.run Sys2Proof.core i s) (fun u => u.state == .busy)

theorem busyRun_of {k : Nat} {s t : State} (h : Host.Core.run Sys2Proof.core k s = .next t)
    (hb : busyBefore k s = true) : BusyRun k s t := by
  refine ⟨h, fun i u hi hu => ?_⟩
  have := List.all_eq_true.1 hb i (List.mem_range.2 hi)
  rw [hu] at this
  simpa [nextIs] using this

/-- DecodeResultOverFile, first case: the one payload byte is there. -/
theorem witness_ResultComplete : ∃ t, SourceHolds [0x00] (begun [0x00] 1 oneSample)
    ∧ BusyRun 4 (begun [0x00] 1 oneSample) t ∧ t.state = .done ∧ t.pcm = [(0, 0x8284)] :=
  ⟨_, .inr rfl, busyRun_of rfl (by decide), by decide, by decide⟩

/-- DecodeResultOverFile, second case: the one payload byte is missing. -/
theorem witness_ResultTruncated : ∃ t, SourceHolds [] (begun [] 1 noSample)
    ∧ BusyRun 2 (begun [] 1 noSample) t ∧ t.state = .error ∧ t.decErr = .truncated ∧ t.produced = 0 :=
  ⟨_, .inr rfl, busyRun_of rfl (by decide), by decide, by decide, by decide⟩

/-- DecodeResultOverFile with n = 0, whatever the source holds (R147). -/
theorem witness_ResultEmpty : ∃ t, BusyRun 1 (begun [] 0 [.engine]) t ∧ t.state = .done :=
  ⟨_, busyRun_of rfl (by decide), by decide⟩

/-- DecodeCompletesWhenDriven at n = 1 with the whole payload there, and TruncatedDecodeFailsWhenDriven at n = 1 with
none of it. -/
theorem witness_Driven :
    nextIs (drive [0x00] 4 (begun [0x00] 1 [])) (fun t => t.state == .done && t.pcm == [(0, 0x8284)]) = true
    ∧ nextIs (drive [] 2 (begun [] 1 [])) (fun t => t.state == .error && t.decErr == .truncated) = true := by decide

/-- ExactRequestsAreWholeChunks: the request outstanding after one step. -/
theorem witness_Requests : ∃ t, BusyRun 1 (begun [0x00] 1 oneSample) t ∧ outstandingRequest t = some (0, 1) :=
  ⟨_, busyRun_of rfl (by decide), by decide⟩

/-- SamePayloadSameResult: two sources with the same payload and different bytes after it, two runs that end. -/
theorem witness_SamePayload : (∀ j, j < 1 → ([0x00] : List Byte)[0 + j]? = ([0x00, 0x55] : List Byte)[0 + j]?)
    ∧ (∃ t, BusyRun 4 (begun [0x00] 1 oneSample) t ∧ t.state = .done)
    ∧ (∃ t, BusyRun 4 (begun [0x00, 0x55] 1 oneSample) t ∧ t.state = .done) :=
  ⟨by decide, ⟨_, busyRun_of rfl (by decide), by decide⟩, ⟨_, busyRun_of rfl (by decide), by decide⟩⟩

end Sys2Proof.Tests
end

section
/-! The event-indexed inversion of one step: which agent can make which change to the engine's part of the state
(10_state.md R20). The families of statements that name the agent of a change rest on step_eventEffect. -/

namespace Sys2Proof

/-! ### The only word that decodes to DECODE, and the accesses that are admitted -/

theorem eq_encode_decode_of_decodeCmd {w : Word} (h : decodeCmd w = .ok .decode) : w = encode .decode := by
  simp only [decodeCmd] at h
  split at h
  · split at h <;> cases h
  · split at h
    · rename_i hopcode
      split at h
      · cases h
      · rename_i hreserved
        have htop : w.toNat / 2 ^ 24 = 2 := (opcodeOf_eq_iff w (by decide)).1 hopcode
        have hlow : w.toNat % 2 ^ 24 = 0 := by
          rw [← operand_toNat, not_not.1 hreserved]
          rfl
        apply BitVec.eq_of_toNat_eq
        rw [encode_decode_toNat]
        omega
    · split at h <;> cases h

theorem regAt_eq_cmd {off : Nat} (h : regAt off = some .cmd) : off = 0 := by
  unfold regAt at h
  split at h
  · assumption
  · split_ifs at h <;> cases h

end Sys2Proof

namespace Sys2Proof.Machine

/-- An admitted access is one of the two the host's 32-bit port can make (42_host_access.md R160). -/
theorem admitted_cases {a : BusAccess} (h : admitted a = true) :
    a.offset ≤ 0xFC ∧ a.offset % 4 = 0 ∧ (a = busRead a.offset ∨ ∃ v, a = busWrite a.offset v) := by
  obtain ⟨offset, width, dir⟩ := a
  simp only [admitted, Bool.and_eq_true, decide_eq_true_eq] at h
  obtain ⟨⟨rfl, haligned⟩, hbound⟩ := h
  refine ⟨hbound, haligned, ?_⟩
  cases dir with
  | read => exact .inl rfl
  | write v => exact .inr ⟨v, rfl⟩

/-! ### What the engine's invariants see of the state -/

/-- s with every field that R38 does not speak of blanked: CMD_ERR, the host's registers and the model's own fields. -/
def engineView (s : State) : State :=
  { s with cmdErr := .ok, dataOffset := 0, dataSize := 0, result := 0, inputs := [], choices := 0, busReply := none }

theorem engineView_takeEvent (s : State) : engineView (takeEvent s).2 = engineView s := by
  unfold takeEvent
  split <;> rfl

theorem state_of_engineView {s t : State} (h : engineView t = engineView s) : t.state = s.state :=
  (congrArg State.state h :)

theorem platform_of_engineView {s t : State} (h : engineView t = engineView s) : t.platform = s.platform :=
  (congrArg State.platform h :)

theorem engineInv_engineView (s : State) : EngineInv (engineView s) ↔ EngineInv s :=
  ⟨fun h => engineInv_of_eq h rfl rfl rfl rfl rfl rfl rfl rfl rfl rfl rfl rfl,
    fun h => engineInv_of_eq h rfl rfl rfl rfl rfl rfl rfl rfl rfl rfl rfl rfl⟩

theorem engineInv_congr {s t : State} (h : engineView t = engineView s) : EngineInv t ↔ EngineInv s := by
  rw [← engineInv_engineView t, h, engineInv_engineView]

theorem decodesFrom_engineView (off : Word) (s : State) : DecodesFrom off (engineView s) ↔ DecodesFrom off s :=
  Iff.rfl

theorem decodesFrom_congr {s t : State} (off : Word) (h : engineView t = engineView s) :
    DecodesFrom off t ↔ DecodesFrom off s := by
  rw [← decodesFrom_engineView off t, h, decodesFrom_engineView]

/-! ### Which agent makes which change -/

theorem execPcmRead_engineView {index : BitVec 24} {s t : State} (h : execPcmRead index s = .next t) :
    engineView t = engineView s := by
  by_cases hdone : s.state = .done
  · by_cases hindex : index.toNat < s.length.toNat
    · rw [execPcmRead_read hdone hindex] at h
      split at h
      · cases h; rfl
      · cases h
    · rw [execPcmRead_range hdone (by omega)] at h
      cases h; rfl
  · rw [execPcmRead_badState hdone] at h
    cases h; rfl

/-- Of all command words only DECODE's own reaches the engine. -/
theorem executeCmd_decode_or_view {w : Word} {s t : State} (h : executeCmd w s = .next t) :
    engineView t = engineView s ∨ (w = encode .decode ∧ execDecode s = .next t) := by
  cases hw : decodeCmd w with
  | error c =>
    rw [executeCmd_error hw] at h
    cases h; exact .inl rfl
  | ok i =>
    rw [executeCmd_ok hw] at h
    cases i with
    | lookup code => cases h; exact .inl rfl
    | decode => exact .inr ⟨eq_encode_decode_of_decodeCmd hw, h⟩
    | pcmRead index => exact .inl (execPcmRead_engineView h)

theorem writeReg_decode_or_view {off : Nat} {v : Word} {s t : State} (h : writeReg off v s = .next t) :
    engineView t = engineView s ∨ (off = 0 ∧ v = encode .decode ∧ execDecode s = .next t) := by
  unfold writeReg at h
  split at h
  · rename_i hreg
    exact (executeCmd_decode_or_view h).imp_right fun ⟨hv, ht⟩ => ⟨regAt_eq_cmd hreg, hv, ht⟩
  all_goals cases h; exact .inl rfl

/-- Of all host accesses only the write of DECODE's word to CMD reaches the engine. -/
theorem hostAccess_decode_or_view {a : BusAccess} {s t : State} (h : hostAccess a s = .next t) :
    engineView t = engineView s
      ∨ (a = cmdWrite (encode .decode) ∧ ∃ u, execDecode s = .next u ∧ t = respond .written u) := by
  cases hadmitted : admitted a with
  | false =>
    left
    by_cases hinside : a.offset ≤ 0xFF
    · rw [hostAccess_unadmitted hinside hadmitted] at h
      cases h; rfl
    · rw [hostAccess_outside (by omega)] at h
      cases h; rfl
  | true =>
    obtain ⟨hbound, haligned, ha | ⟨v, ha⟩⟩ := admitted_cases hadmitted
    · rw [ha, hostAccess_busRead hbound haligned] at h
      cases h; exact .inl rfl
    · rw [ha, hostAccess_busWrite hbound haligned] at h
      obtain ⟨u, hu, rfl⟩ := onNext_next h
      rcases writeReg_decode_or_view hu with hview | ⟨hoff, rfl, hexec⟩
      · exact .inl hview
      · rw [hoff] at ha
        exact .inr ⟨ha, u, hexec, rfl⟩

theorem engineStep_of_wait {s : State} (h : s.phase = .wait) : engineStep s = .next s := by
  simp [engineStep, issueEnabled, convertEnabled, h]

theorem sourceStep_of_not_enabled {a : SourceAnswer} {s : State} (h : answerEnabled s = false) :
    sourceStep a s = .next s := by
  simp [sourceStep, h]

/-- Everything an event can do to the engine's part of the state, with the agent that does it (10_state.md R20,
R35). -/
inductive EventEffect : Event → State → State → Prop where
  | kept (e : Event) (s t : State) (view : engineView t = engineView s) : EventEffect e s t
  | allocFailed (s : State) (r : BusReply) (ready : s.state = .idle ∨ s.state = .done)
      (tooBig : s.pcmCap < s.dataSize.toNat) :
      EventEffect (.host (cmdWrite (encode .decode))) s (respond r (failAllocation (acceptDecode s)))
  | began (s : State) (r : BusReply) (ready : s.state = .idle ∨ s.state = .done)
      (fits : s.dataSize.toNat ≤ s.pcmCap) :
      EventEffect (.host (cmdWrite (encode .decode))) s
        (respond r (beginDecode (s.dataOffset.setWidth 33) s.dataSize (acceptDecode s)))
  | engine (s t : State) (phase : s.phase ≠ .wait) (effect : DecodeEffect s t) : EventEffect .engine s t
  | source (a : SourceAnswer) (s t : State) (enabled : answerEnabled s = true) (effect : DecodeEffect s t) :
      EventEffect (.source a) s t
  | reset (s : State) : EventEffect .reset s (resetBlock s)

/-- Everything DECODE, written to CMD, can do. -/
theorem execDecode_eventEffect {s u : State} (r : BusReply) (h : execDecode s = .next u) :
    EventEffect (.host (cmdWrite (encode .decode))) s (respond r u) := by
  by_cases hbusy : s.state = .busy ∨ s.state = .error
  · rw [execDecode_busy hbusy] at h
    cases h; exact .kept _ _ _ rfl
  · have hready := (ready_iff s).1 hbusy
    by_cases hsize : s.pcmCap < s.dataSize.toNat
    · rw [execDecode_over hready hsize] at h
      cases h; exact .allocFailed s r hready hsize
    · rw [execDecode_fits hready (by omega)] at h
      cases h; exact .began s r hready (by omega)

theorem agentStep_eventEffect {e : Event} {s t : State} (h : agentStep e s = .next t) : EventEffect e s t := by
  cases e with
  | host a =>
    rcases hostAccess_decode_or_view h with hview | ⟨rfl, u, hu, rfl⟩
    · exact .kept _ _ _ hview
    · exact execDecode_eventEffect _ hu
  | engine =>
    have h : engineStep s = .next t := h
    by_cases hwait : s.phase = .wait
    · rw [engineStep_of_wait hwait] at h
      cases h; exact .kept _ _ _ rfl
    · rcases engineStep_effect h with rfl | heffect
      · exact .kept _ _ _ rfl
      · exact .engine s t hwait heffect
  | source a =>
    have h : sourceStep a s = .next t := h
    cases henabled : answerEnabled s with
    | false =>
      rw [sourceStep_of_not_enabled henabled] at h
      cases h; exact .kept _ _ _ rfl
    | true =>
      rcases sourceStep_effect h with rfl | heffect
      · exact .kept _ _ _ rfl
      · exact .source a s t henabled heffect
  | reset => cases h; exact .reset s

theorem step_eventEffect {s t : State} (h : step s = .next t) :
    EventEffect (takeEvent s).1 (takeEvent s).2 t :=
  agentStep_eventEffect h

theorem DecodeEffect.platform_eq {s t : State} (h : DecodeEffect s t) : t.platform = s.platform := by
  cases h <;> rfl

theorem EventEffect.platform_eq {e : Event} {s t : State} (h : EventEffect e s t) : t.platform = s.platform := by
  cases h with
  | kept e s t view => exact platform_of_engineView view
  | engine s t phase effect => exact effect.platform_eq
  | source a s t enabled effect => exact effect.platform_eq
  | allocFailed | began | reset => rfl

/-- No step changes PCM_CAP or SOURCE_MODEL (00_scope.md R6, 20_memory.md R78). -/
theorem step_platform {s t : State} (h : step s = .next t) : t.platform = s.platform := by
  rw [(step_eventEffect h).platform_eq, takeEvent_platform]

end Sys2Proof.Machine
end

section
/-! The values after reset (10_state.md R39), STATUS (R26) and CAPACITY (R30). -/

namespace Sys2Proof.Machine

/-! ### STATUS as a number -/

theorem toNat_append_eq_add {m n : Nat} (x : BitVec m) (y : BitVec n) :
    (x ++ y).toNat = 2 ^ n * x.toNat + y.toNat := by
  rw [BitVec.toNat_append, ← Nat.shiftLeft_add_eq_or_of_lt y.isLt, Nat.shiftLeft_eq, Nat.mul_comm]

/-- The fields of STATUS at their bit positions (R26). -/
theorem statusWord_toNat (s : State) :
    (statusWord s).toNat = (stateCode s.state).toNat + 4 * (phaseField s).toNat
      + 0x10 * (decErrCode s.decErr).toNat + 0x100 * (cmdErrCode s.cmdErr).toNat := by
  have hcmd := (cmdErrCode s.cmdErr).isLt
  have hdec := (decErrCode s.decErr).isLt
  have hphase := (phaseField s).isLt
  have hstate := (stateCode s.state).isLt
  simp only [statusWord, BitVec.toNat_setWidth, toNat_append_eq_add]
  omega

/-- Settles O9: STATUS is the sum of its fields, and each field's code is read off its own table. -/
theorem statusWordLayout : Obligations.StatusWordLayout := by
  intro s
  rw [statusWord_toNat]
  refine congrArg₂ _ (congrArg₂ _ (congrArg₂ _ ?state ?phase) ?decErr) ?cmdErr
  case state => cases s.state <;> rfl
  case phase =>
    unfold phaseField
    cases s.state <;> cases s.phase <;> rfl
  case decErr => cases s.decErr <;> rfl
  case cmdErr => cases s.cmdErr <;> rfl

/-! ### CAPACITY -/

theorem readReg_capacity (s : State) : readReg 0x1C s = BitVec.ofNat 32 s.pcmCap := rfl

theorem readReg_capacity_toNat (s : State) : (readReg 0x1C s).toNat = s.pcmCap := by
  have hcap := pcmCap_le s
  rw [readReg_capacity, BitVec.toNat_ofNat, Nat.mod_eq_of_lt (by omega)]

/-- Settles O39: CAPACITY is a function of the platform, which no step changes. -/
theorem capacityReadsPcmCapAlways : Obligations.CapacityReadsPcmCapAlways := by
  intro s
  refine ⟨readReg_capacity_toNat s, pcmCap_pos s, pcmCap_le s, fun t hstep => ?_⟩
  have hcap : t.pcmCap = s.pcmCap := congrArg Platform.pcmCap (step_platform hstep)
  exact ⟨hcap, by rw [readReg_capacity, readReg_capacity, hcap]⟩

/-! ### Reset -/

/-- Settles O27: every clause is a field of the reset state, or is read from one. -/
theorem resetLeavesStatedValues : Obligations.ResetLeavesStatedValues :=
  ⟨rfl, rfl, rfl, rfl, rfl, rfl, rfl, rfl, rfl, rfl, rfl, rfl, rfl,
    fun i => Memory.read_nil i, fun j => Memory.read_nil j, rfl, rfl, readReg_capacity State.reset⟩

theorem resetBlock_reset : resetBlock State.reset = State.reset := rfl

/-- RESULT is 0 after reset, which is the entry of the code 0xFF (40_lut.md R112). -/
theorem zero_eq_resultOf_lut : (0 : Word) = resultOf (lut 0xFF) := by decide

/-- The reset input establishes the storage invariant from any state. -/
theorem storageInv_resetBlock (s : State) : StorageInv (resetBlock s) where
  pcm_wf := wf_reset.1
  pcm_exists := by simp
  pcm_entry := by simp
  pcm_unwritten := .inr fun j _ => Memory.read_nil j
  chunk_wf := wf_reset.2
  chunk_exists := by simp
  result_entry := ⟨0xFF, zero_eq_resultOf_lut⟩

/-- Settles O31: the reset state is what the reset input makes of it. -/
theorem storageInvAtReset : Obligations.StorageInvAtReset :=
  storageInv_resetBlock State.reset

end Sys2Proof.Machine
end

section
/-! R38's invariants, kept by each operation of the engine, and by every step. -/

namespace Sys2Proof.Machine

/-! ### Operations that end outside BUSY, where R38 says nothing of the request and the chunk -/

theorem engineInv_of_not_busy {s : State} (hbusy : s.state ≠ .busy) (hproduced : s.produced.toNat ≤ s.length.toNat)
    (hcap : s.length.toNat ≤ s.pcmCap) (herr : s.decErr ≠ .none ↔ s.state = .error)
    (hdone : s.state = .done → s.produced = s.length)
    (hslots : ∀ j, j < s.produced.toNat → ∃ v, Memory.read s.pcm j = some v) : EngineInv s where
  produced_le_length := hproduced
  length_le_cap := hcap
  decErr_iff := herr
  done_complete := hdone
  slots_written := hslots
  busy_pos h := absurd h hbusy
  wait_request h := absurd h hbusy
  convert_index h := absurd h hbusy
  convert_room h := absurd h hbusy
  convert_bytes h := absurd h hbusy

theorem engineInv_resetBlock (s : State) : EngineInv (resetBlock s) := by
  apply engineInv_of_not_busy <;> simp

/-- Settles O29: the reset state is what the reset input makes of it. -/
theorem engineInvAtReset : Obligations.EngineInvAtReset :=
  engineInv_resetBlock State.reset

theorem engineInv_failAllocation (s : State) : EngineInv (failAllocation (acceptDecode s)) := by
  apply engineInv_of_not_busy <;> simp

theorem engineInv_raiseDecodeError {s : State} {code : DecErr} (h : EngineInv s) (hcode : code ≠ .none) :
    EngineInv (raiseDecodeError code s) :=
  engineInv_of_not_busy (by simp) h.produced_le_length h.length_le_cap (by simpa using hcode) (by simp)
    h.slots_written

theorem engineInv_finishDecode {s : State} (h : EngineInv s) (hbusy : s.state = .busy)
    (hall : s.produced = s.length) : EngineInv (finishDecode s) :=
  engineInv_of_not_busy (by simp) h.produced_le_length h.length_le_cap
    (by simpa [hbusy] using h.decErr_iff) (fun _ => hall) h.slots_written

/-! ### The bytes held, by phase -/

theorem heldBytes_of_convert {s : State} (h : s.phase = .convert) :
    heldBytes s = s.chunkLen.val - s.chunkIdx.val := by
  simp [heldBytes, h]

theorem heldBytes_of_not_convert {s : State} (h : s.phase ≠ .convert) : heldBytes s = 0 := by
  unfold heldBytes
  split
  · contradiction
  · rfl

/-! ### The start of a decode -/

theorem decodesFrom_beginDecode (s : State) :
    DecodesFrom s.dataOffset (beginDecode (s.dataOffset.setWidth 33) s.dataSize (acceptDecode s)) := by
  have hoff := s.dataOffset.isLt
  rw [DecodesFrom, heldBytes_of_not_convert (by simp)]
  simp only [beginDecode_pos, beginDecode_produced, acceptDecode_produced, BitVec.toNat_setWidth,
    show (0 : Word).toNat = 0 from rfl]
  omega

theorem engineInv_beginDecode {s : State} (hfits : s.dataSize.toNat ≤ s.pcmCap) :
    EngineInv (beginDecode (s.dataOffset.setWidth 33) s.dataSize (acceptDecode s)) where
  produced_le_length := by simp
  length_le_cap := by simpa using hfits
  decErr_iff := by simp
  done_complete := by simp
  slots_written := by simp
  busy_pos _ := ⟨s.dataOffset, decodesFrom_beginDecode s⟩
  wait_request := by simp
  convert_index := by simp
  convert_room := by simp
  convert_bytes := by simp

/-! ### ENG_ISSUE -/

theorem decodesFrom_issueRequest {s : State} {off : Word} (r : ChunkCount) (hissue : s.phase = .issue)
    (hfrom : DecodesFrom off s) : DecodesFrom off (issueRequest r s) := by
  rw [DecodesFrom, heldBytes_of_not_convert (by simp [hissue])] at hfrom
  rw [DecodesFrom, heldBytes_of_not_convert (by simp)]
  exact hfrom

/-- A request asks for at least one byte and for no more than one chunk or what remains (41_decode.md R134). -/
theorem requestLength_bounds {s : State} (h : EngineInv s) (hmore : s.produced ≠ s.length) :
    1 ≤ requestLength s ∧ requestLength s ≤ chunkBytes := by
  have hle := h.produced_le_length
  have hne := mt BitVec.eq_of_toNat_eq hmore
  simp only [requestLength, chunkBytes]
  omega

theorem engineInv_issueRequest {s : State} (h : EngineInv s) (hbusy : s.state = .busy) (hissue : s.phase = .issue)
    (hmore : s.produced ≠ s.length) : EngineInv (issueRequest (chunkCount (requestLength s)) s) where
  produced_le_length := h.produced_le_length
  length_le_cap := h.length_le_cap
  decErr_iff := h.decErr_iff
  done_complete := h.done_complete
  slots_written := h.slots_written
  busy_pos _ := (h.busy_pos hbusy).imp fun _ hfrom => decodesFrom_issueRequest _ hissue hfrom
  wait_request _ _ := by
    obtain ⟨hpos, hle⟩ := requestLength_bounds h hmore
    rw [issueRequest_reqLen, chunkCount_val hle]
    exact ⟨hpos, le_refl _⟩
  convert_index := by simp
  convert_room := by simp
  convert_bytes := by simp

/-! ### SRC_ANSWER -/

/-- pos stays far from its 33-bit bound: DATA_OFFSET is 32 bits wide, and PRODUCED stays within PCM_CAP. -/
theorem takeAnswer_pos_toNat {s : State} {off : Word} {bs : List Byte} (h : EngineInv s) (hwait : s.phase = .wait)
    (hfrom : DecodesFrom off s) (hlen : bs.length ≤ chunkBytes) :
    (takeAnswer bs s).pos.toNat = s.pos.toNat + bs.length := by
  have hproduced := h.produced_le_length
  have hcap := h.length_le_cap
  have hmax := pcmCap_le s
  have hoff := off.isLt
  rw [DecodesFrom, heldBytes_of_not_convert (by simp [hwait])] at hfrom
  simp only [chunkBytes] at hlen
  simp only [takeAnswer_pos, BitVec.toNat_add, BitVec.toNat_ofNat]
  omega

theorem decodesFrom_takeAnswer {s : State} {off : Word} {bs : List Byte} (h : EngineInv s) (hwait : s.phase = .wait)
    (hlen : bs.length ≤ chunkBytes) (hfrom : DecodesFrom off s) : DecodesFrom off (takeAnswer bs s) := by
  have hpos := takeAnswer_pos_toNat h hwait hfrom hlen
  rw [DecodesFrom, heldBytes_of_not_convert (by simp [hwait])] at hfrom
  rw [DecodesFrom, heldBytes_of_convert (by simp), hpos]
  simp only [takeAnswer_produced, takeAnswer_chunkLen, takeAnswer_chunkIdx, chunkCount_val hlen, Fin.val_zero]
  omega

theorem engineInv_takeAnswer {s : State} {bs : List Byte} (h : EngineInv s) (hbusy : s.state = .busy)
    (hwait : s.phase = .wait) (hnonempty : bs ≠ []) (hreq : bs.length ≤ s.reqLen.val) :
    EngineInv (takeAnswer bs s) := by
  obtain ⟨-, hroom⟩ := h.wait_request hbusy hwait
  have hlen : bs.length ≤ chunkBytes := by omega
  have hcount := chunkCount_val hlen
  have hpos := List.length_pos_iff.2 hnonempty
  have hproduced := h.produced_le_length
  exact {
    produced_le_length := h.produced_le_length
    length_le_cap := h.length_le_cap
    decErr_iff := h.decErr_iff
    done_complete := h.done_complete
    slots_written := h.slots_written
    busy_pos := fun _ => (h.busy_pos hbusy).imp fun _ hfrom => decodesFrom_takeAnswer h hwait hlen hfrom
    wait_request := by simp
    convert_index := fun _ _ => by
      simp only [takeAnswer_chunkIdx, takeAnswer_chunkLen, takeAnswer_reqLen, hcount, Fin.val_zero]
      exact ⟨hpos, hreq⟩
    convert_room := fun _ _ => by
      simp only [takeAnswer_produced, takeAnswer_length, takeAnswer_chunkIdx, takeAnswer_chunkLen, hcount, Fin.val_zero]
      omega
    convert_bytes := fun _ _ i _ hi => by
      rw [takeAnswer_chunkLen, hcount] at hi
      refine ⟨bs[i], ?_⟩
      rw [takeAnswer_chunk, read_chunkFill, if_pos (by omega), Nat.sub_zero, List.getElem?_eq_getElem hi] }

/-! ### ENG_CONVERT -/

theorem advanceConvert_produced_toNat {s : State} (h : EngineInv s) (hbusy : s.state = .busy)
    (hconvert : s.phase = .convert) (m : List (Nat × Sample)) :
    (advanceConvert m s).produced.toNat = s.produced.toNat + 1 := by
  obtain ⟨hindex, -⟩ := h.convert_index hbusy hconvert
  have hroom := h.convert_room hbusy hconvert
  have hlength := s.length.isLt
  rw [advanceConvert_produced]
  exact BitVec.toNat_add_of_lt (by rw [show (1 : Word).toNat = 1 from rfl]; omega)

theorem advanceConvert_chunkIdx_val {s : State} (h : EngineInv s) (hbusy : s.state = .busy)
    (hconvert : s.phase = .convert) (m : List (Nat × Sample)) :
    (advanceConvert m s).chunkIdx.val = s.chunkIdx.val + 1 := by
  obtain ⟨hindex, -⟩ := h.convert_index hbusy hconvert
  have hlen := s.chunkLen.isLt
  rw [advanceConvert_chunkIdx, chunkCount_val (by simp only [chunkBytes]; omega)]

/-- A conversion leaves one byte less, also where it was the last one and the phase becomes ISSUE. -/
theorem heldBytes_advanceConvert {s : State} (h : EngineInv s) (hbusy : s.state = .busy)
    (hconvert : s.phase = .convert) (m : List (Nat × Sample)) :
    heldBytes (advanceConvert m s) + 1 = heldBytes s := by
  obtain ⟨hindex, -⟩ := h.convert_index hbusy hconvert
  rw [heldBytes_of_convert hconvert]
  by_cases hlast : s.chunkIdx.val + 1 = s.chunkLen.val
  · rw [heldBytes_of_not_convert (by simp [hlast])]
    omega
  · rw [heldBytes_of_convert (by simp [hlast, hconvert]), advanceConvert_chunkIdx_val h hbusy hconvert,
      advanceConvert_chunkLen]
    omega

theorem decodesFrom_advanceConvert {s : State} {off : Word} (h : EngineInv s) (hbusy : s.state = .busy)
    (hconvert : s.phase = .convert) (m : List (Nat × Sample)) (hfrom : DecodesFrom off s) :
    DecodesFrom off (advanceConvert m s) := by
  have hproduced := advanceConvert_produced_toNat h hbusy hconvert m
  have hheld := heldBytes_advanceConvert h hbusy hconvert m
  unfold DecodesFrom at hfrom ⊢
  rw [advanceConvert_pos]
  omega

/-- The slot written is the first one without a value, so every slot below the new PRODUCED holds one. -/
theorem slots_written_write {s : State} (h : EngineInv s) (v : Sample) {j : Nat} (hj : j < s.produced.toNat + 1) :
    ∃ w, Memory.read (Memory.write s.pcm s.produced.toNat v) j = some w := by
  by_cases hlast : j = s.produced.toNat
  · exact ⟨v, by rw [hlast, Memory.read_write_same]⟩
  · rw [Memory.read_write_other _ _ hlast]
    exact h.slots_written j (by omega)

theorem advanceConvert_phase_eq_convert {s : State} {m : List (Nat × Sample)}
    (h : (advanceConvert m s).phase = .convert) : s.chunkIdx.val + 1 ≠ s.chunkLen.val := by
  intro hlast
  simp [hlast] at h

theorem engineInv_advanceConvert {s : State} (h : EngineInv s) (hbusy : s.state = .busy)
    (hconvert : s.phase = .convert) (v : Sample) :
    EngineInv (advanceConvert (Memory.write s.pcm s.produced.toNat v) s) := by
  obtain ⟨hindex, hreq⟩ := h.convert_index hbusy hconvert
  have hroom := h.convert_room hbusy hconvert
  have hproduced := advanceConvert_produced_toNat h hbusy hconvert (Memory.write s.pcm s.produced.toNat v)
  have hnext := advanceConvert_chunkIdx_val h hbusy hconvert (Memory.write s.pcm s.produced.toNat v)
  exact {
    produced_le_length := by rw [hproduced, advanceConvert_length]; omega
    length_le_cap := h.length_le_cap
    decErr_iff := h.decErr_iff
    done_complete := by simp [hbusy]
    slots_written := fun j hj => slots_written_write h v (hproduced ▸ hj)
    busy_pos := fun _ => (h.busy_pos hbusy).imp fun _ hfrom => decodesFrom_advanceConvert h hbusy hconvert _ hfrom
    wait_request := fun _ hwait => by
      rw [advanceConvert_phase, hconvert] at hwait
      split at hwait <;> cases hwait
    convert_index := fun _ hphase => by
      have hmore := advanceConvert_phase_eq_convert hphase
      rw [hnext, advanceConvert_chunkLen, advanceConvert_reqLen]
      exact ⟨by omega, hreq⟩
    convert_room := fun _ _ => by
      rw [hproduced, hnext, advanceConvert_chunkLen, advanceConvert_length]
      omega
    convert_bytes := fun _ _ i hlow hhigh => by
      rw [hnext] at hlow
      exact h.convert_bytes hbusy hconvert i (by omega) hhigh }

/-! ### Every step -/

/-- What a step does for R38: it keeps the invariants, a decode that starts takes its off from DATA_OFFSET, and a
decode that goes on keeps its off. -/
def EngineKept (s t : State) : Prop :=
  EngineInv t
    ∧ (s.state ≠ .busy → t.state = .busy → DecodesFrom s.dataOffset t)
    ∧ ∀ off, s.state = .busy → DecodesFrom off s → t.state = .busy → DecodesFrom off t

theorem engineKept_of_engineView {s t : State} (h : EngineInv s) (hview : engineView t = engineView s) :
    EngineKept s t := by
  have hstate := state_of_engineView hview
  exact ⟨(engineInv_congr hview).2 h, fun hs ht => absurd (hstate ▸ ht) hs,
    fun off _ hfrom _ => (decodesFrom_congr off hview).2 hfrom⟩

theorem engineKept_of_not_busy {s t : State} (h : EngineInv t) (ht : t.state ≠ .busy) : EngineKept s t :=
  ⟨h, fun _ hbusy => absurd hbusy ht, fun _ _ _ hbusy => absurd hbusy ht⟩

theorem engineKept_of_busy {s t : State} (h : EngineInv t) (hs : s.state = .busy)
    (hfrom : ∀ off, DecodesFrom off s → DecodesFrom off t) : EngineKept s t :=
  ⟨h, fun hidle => absurd hs hidle, fun off _ hoff _ => hfrom off hoff⟩

theorem engineKept_respond {s t : State} (r : BusReply) (h : EngineKept s t) : EngineKept s (respond r t) := by
  obtain ⟨hinv, hstart, hgo⟩ := h
  exact ⟨(engineInv_congr (s := t) (t := respond r t) rfl).2 hinv, hstart, hgo⟩

theorem engineKept_beginDecode {s : State} (hready : s.state = .idle ∨ s.state = .done)
    (hfits : s.dataSize.toNat ≤ s.pcmCap) :
    EngineKept s (beginDecode (s.dataOffset.setWidth 33) s.dataSize (acceptDecode s)) :=
  ⟨engineInv_beginDecode hfits, fun _ _ => decodesFrom_beginDecode s,
    fun _ hbusy => absurd (.inl hbusy) ((ready_iff s).2 hready)⟩

theorem engineKept_decodeEffect {s t : State} (h : EngineInv s) (effect : DecodeEffect s t) : EngineKept s t := by
  cases effect with
  | finished enabled all =>
    obtain ⟨hbusy, -⟩ := (issueEnabled_iff s).1 enabled
    exact engineKept_of_not_busy (engineInv_finishDecode h hbusy all) (by simp)
  | issued enabled more =>
    obtain ⟨hbusy, hissue⟩ := (issueEnabled_iff s).1 enabled
    exact engineKept_of_busy (engineInv_issueRequest h hbusy hissue more) hbusy
      fun _ => decodesFrom_issueRequest _ hissue
  | failed enabled code why =>
    have hcode : code ≠ .none := by rcases why with ⟨rfl, -⟩ | ⟨rfl, -⟩ <;> decide
    exact engineKept_of_not_busy (engineInv_raiseDecodeError h hcode) (by simp)
  | answered enabled bs nonempty admitted =>
    obtain ⟨hbusy, hwait⟩ := (answerEnabled_iff s).1 enabled
    have hreq := admitsAnswer_length admitted
    have hlen : bs.length ≤ chunkBytes := by
      obtain ⟨-, hroom⟩ := h.wait_request hbusy hwait
      omega
    exact engineKept_of_busy (engineInv_takeAnswer h hbusy hwait nonempty hreq) hbusy
      fun _ => decodesFrom_takeAnswer h hwait hlen
  | converted enabled b index value slot =>
    obtain ⟨hbusy, hconvert⟩ := (convertEnabled_iff s).1 enabled
    exact engineKept_of_busy (engineInv_advanceConvert h hbusy hconvert _) hbusy
      fun _ => decodesFrom_advanceConvert h hbusy hconvert _

theorem engineKept_eventEffect {e : Event} {s t : State} (h : EngineInv s) (effect : EventEffect e s t) :
    EngineKept s t := by
  cases effect with
  | kept e s t view => exact engineKept_of_engineView h view
  | allocFailed s r ready tooBig =>
    exact engineKept_respond r (engineKept_of_not_busy (engineInv_failAllocation s) (by simp))
  | began s r ready fits => exact engineKept_respond r (engineKept_beginDecode ready fits)
  | engine s t phase effect => exact engineKept_decodeEffect h effect
  | source a s t enabled effect => exact engineKept_decodeEffect h effect
  | reset s => exact engineKept_of_not_busy (engineInv_resetBlock s) (by simp)

/-- Taking the next event changes nothing that EngineKept reads of the state before the step. -/
theorem engineKept_takeEvent (s t : State) : EngineKept (takeEvent s).2 t ↔ EngineKept s t := by
  simp only [EngineKept, takeEvent_state, takeEvent_dataOffset, decodesFrom_congr _ (engineView_takeEvent s)]

/-- Settles O30: each operation of an agent keeps the invariants and the off, and a step is one of them. -/
theorem engineInvKept : Obligations.EngineInvKept := fun s t hinv hstep =>
  (engineKept_takeEvent s t).1 (engineKept_eventEffect (engineInv_takeEvent hinv) (step_eventEffect hstep))

/-! ### The transitions of STATE -/

/-- The listed transitions of STATE (R35), for an event e that takes s to t. -/
def ListedTransition (e : Event) (s t : State) : Prop :=
  (e = .reset ∧ t.state = .idle)
    ∨ (e = .host (cmdWrite (encode .decode)) ∧ (s.state = .idle ∨ s.state = .done)
        ∧ (t.state = .busy ∧ s.dataSize.toNat ≤ s.pcmCap ∨ t.state = .error ∧ s.pcmCap < s.dataSize.toNat))
    ∨ (e = .engine ∧ s.state = .busy ∧ s.phase = .issue ∧ s.produced = s.length ∧ t.state = .done)
    ∨ ((∃ a, e = .source a) ∧ s.state = .busy ∧ s.phase = .wait ∧ t.state = .error)

theorem DecodeEffect.state_change {s t : State} (h : DecodeEffect s t) (hne : s.state ≠ t.state) :
    (s.state = .busy ∧ s.phase = .issue ∧ s.produced = s.length ∧ t.state = .done)
      ∨ (s.state = .busy ∧ s.phase = .wait ∧ t.state = .error) := by
  cases h with
  | finished enabled all =>
    obtain ⟨hbusy, hissue⟩ := (issueEnabled_iff s).1 enabled
    exact .inl ⟨hbusy, hissue, all, rfl⟩
  | failed enabled code why =>
    obtain ⟨hbusy, hwait⟩ := (answerEnabled_iff s).1 enabled
    exact .inr ⟨hbusy, hwait, rfl⟩
  | issued | answered | converted => exact absurd rfl hne

theorem EventEffect.listedTransition {e : Event} {s t : State} (h : EventEffect e s t) (hne : s.state ≠ t.state) :
    ListedTransition e s t := by
  cases h with
  | kept e s t view => exact absurd (state_of_engineView view).symm hne
  | allocFailed s r ready tooBig => exact .inr (.inl ⟨rfl, ready, .inr ⟨rfl, tooBig⟩⟩)
  | began s r ready fits => exact .inr (.inl ⟨rfl, ready, .inl ⟨rfl, fits⟩⟩)
  | engine s t phase effect =>
    rcases effect.state_change hne with hdone | ⟨-, hwait, -⟩
    · exact .inr (.inr (.inl ⟨rfl, hdone⟩))
    · exact absurd hwait phase
  | source a s t enabled effect =>
    obtain ⟨-, hwait⟩ := (answerEnabled_iff s).1 enabled
    rcases effect.state_change hne with ⟨-, hissue, -, -⟩ | herror
    · rw [hwait] at hissue
      cases hissue
    · exact .inr (.inr (.inr ⟨⟨a, rfl⟩, herror⟩))
  | reset s => exact .inl ⟨rfl, rfl⟩

/-- Settles O34: the transition of the step's event, read in the state before the event was taken. -/
theorem stateChangesOnlyAsListed : Obligations.StateChangesOnlyAsListed := by
  intro s t hstep hne
  have hlisted := (step_eventEffect hstep).listedTransition (by rwa [takeEvent_state])
  simpa only [ListedTransition, takeEvent_state, takeEvent_phase, takeEvent_produced, takeEvent_length,
    takeEvent_dataSize, takeEvent_pcmCap] using hlisted

end Sys2Proof.Machine
end

section
/-! R74 and 93 U1: where R38 holds every agent's step completes, so that no run stops. A step that can stop reads a
PCM slot below LENGTH in DONE or converts a held byte in BUSY, and R38 gives both accesses their values. -/

namespace Sys2Proof.Machine

/-! ### The reads of the buffers find a value -/

/-- In DONE every slot below LENGTH is written. -/
theorem pcmRead_ok_of_done {s : State} {j : Nat} (h : EngineInv s) (hdone : s.state = .done)
    (hj : j < s.length.toNat) : ∃ v, pcmRead j s = .ok v := by
  obtain ⟨v, hv⟩ := h.slots_written j (by rwa [h.done_complete hdone])
  exact ⟨v, pcmRead_of_value (hj.trans_le h.length_le_cap) hv⟩

theorem engConvert_completes {s : State} (h : EngineInv s) (hbusy : s.state = .busy) (hconvert : s.phase = .convert) :
    ∃ t, engConvert s = .next t := by
  obtain ⟨hindex, -⟩ := h.convert_index hbusy hconvert
  have hroom := h.convert_room hbusy hconvert
  have hcap := h.length_le_cap
  have hlen := s.chunkLen.isLt
  obtain ⟨b, hb⟩ := h.convert_bytes hbusy hconvert _ le_rfl hindex
  exact ⟨_, engConvert_of_value (by simp only [chunkBytes]; omega) hb (by omega)⟩

/-! ### The commands and the host's accesses -/

theorem execDecode_completes (s : State) : ∃ t, execDecode s = .next t := by
  by_cases hbusy : s.state = .busy ∨ s.state = .error
  · exact ⟨_, execDecode_busy hbusy⟩
  · have hready := (ready_iff s).1 hbusy
    by_cases hsize : s.pcmCap < s.dataSize.toNat
    · exact ⟨_, execDecode_over hready hsize⟩
    · exact ⟨_, execDecode_fits hready (by omega)⟩

theorem execPcmRead_completes {s : State} (index : BitVec 24) (h : EngineInv s) :
    ∃ t, execPcmRead index s = .next t := by
  by_cases hdone : s.state = .done
  · by_cases hindex : index.toNat < s.length.toNat
    · obtain ⟨v, hv⟩ := pcmRead_ok_of_done h hdone hindex
      exact ⟨_, by rw [execPcmRead_read hdone hindex, hv]⟩
    · exact ⟨_, execPcmRead_range hdone (by omega)⟩
  · exact ⟨_, execPcmRead_badState hdone⟩

theorem exec_completes {s : State} (i : Instr) (h : EngineInv s) : ∃ t, exec i s = .next t := by
  cases i with
  | lookup code => exact ⟨_, execLookup_next code s⟩
  | decode => exact execDecode_completes s
  | pcmRead index => exact execPcmRead_completes index h

theorem executeCmd_completes {s : State} (w : Word) (h : EngineInv s) : ∃ t, executeCmd w s = .next t := by
  cases hw : decodeCmd w with
  | error c => exact ⟨_, executeCmd_error hw s⟩
  | ok i => rw [executeCmd_ok hw]; exact exec_completes i h

theorem writeReg_completes {s : State} (off : Nat) (v : Word) (h : EngineInv s) :
    ∃ t, writeReg off v s = .next t := by
  unfold writeReg
  split
  · exact executeCmd_completes v h
  all_goals exact ⟨_, rfl⟩

theorem hostAccess_completes {s : State} (a : BusAccess) (h : EngineInv s) : ∃ t, hostAccess a s = .next t := by
  cases hadmitted : admitted a with
  | false =>
    by_cases hinside : a.offset ≤ 0xFF
    · exact ⟨_, hostAccess_unadmitted hinside hadmitted s⟩
    · exact ⟨_, hostAccess_outside (by omega) s⟩
  | true =>
    obtain ⟨hbound, haligned, ha | ⟨v, ha⟩⟩ := admitted_cases hadmitted
    · exact ⟨_, by rw [ha, hostAccess_busRead hbound haligned]⟩
    · obtain ⟨t, ht⟩ := writeReg_completes a.offset v h
      exact ⟨_, by rw [ha, hostAccess_busWrite hbound haligned, ht]; rfl⟩

/-! ### Every agent -/

theorem engineStep_completes {s : State} (h : EngineInv s) : ∃ t, engineStep s = .next t := by
  unfold engineStep
  split
  · exact ⟨_, rfl⟩
  · split
    · rename_i hconvert
      obtain ⟨hbusy, hphase⟩ := (convertEnabled_iff s).1 hconvert
      exact engConvert_completes h hbusy hphase
    · exact ⟨_, rfl⟩

theorem sourceStep_completes (a : SourceAnswer) (s : State) : ∃ t, sourceStep a s = .next t := by
  unfold sourceStep
  split <;> exact ⟨_, rfl⟩

theorem agentStep_completes {s : State} (e : Event) (h : EngineInv s) : ∃ t, agentStep e s = .next t := by
  cases e with
  | host a => exact hostAccess_completes a h
  | engine => exact engineStep_completes h
  | source a => exact sourceStep_completes a s
  | reset => exact ⟨_, rfl⟩

/-- Whatever event comes next, listed or free, the step that takes it completes. -/
theorem step_completes {s : State} (h : EngineInv s) : ∃ t, step s = .next t :=
  agentStep_completes _ (engineInv_takeEvent h)

/-- Settles O33, by induction on the number of steps: where R38 holds a step completes, and R38 holds after it. -/
theorem invariantStatesNeverStop : Obligations.InvariantStatesNeverStop := by
  intro s hinv k
  induction k generalizing s with
  | zero => exact ⟨s, rfl⟩
  | succ k ih =>
    obtain ⟨u, hu⟩ := step_completes hinv
    obtain ⟨hinv', -⟩ := engineInvKept s u hinv hu
    rw [run_succ hu]
    exact ih u hinv'

end Sys2Proof.Machine
end

section
/-! R79: a request stands in BUSY and WAIT only. Of all that an event can do, what leaves the engine's fields alone
keeps it, and everything else leaves BUSY or WAIT. -/

namespace Sys2Proof.Machine

theorem outstandingRequest_congr {s t : State} (h : engineView t = engineView s) :
    outstandingRequest t = outstandingRequest s :=
  (congrArg outstandingRequest h :)

theorem outstandingRequest_eq_none_iff (s : State) :
    outstandingRequest s = none ↔ s.state ≠ .busy ∨ s.phase ≠ .wait := by
  simp only [outstandingRequest, ite_eq_right_iff, answerEnabled_iff, reduceCtorEq, imp_false, not_and_or]

/-- Where a request is outstanding the engine's own steps are not enabled, and every answer ends it. -/
theorem DecodeEffect.outstandingRequest_eq_none {s t : State} (h : DecodeEffect s t) (hwait : s.phase = .wait) :
    outstandingRequest t = none := by
  rw [outstandingRequest_eq_none_iff]
  cases h with
  | finished enabled all => exact .inl (by simp)
  | issued enabled more =>
    obtain ⟨-, hissue⟩ := (issueEnabled_iff s).1 enabled
    rw [hwait] at hissue
    cases hissue
  | failed enabled code why => exact .inl (by simp)
  | answered enabled bs nonempty admitted => exact .inr (by simp)
  | converted enabled b index value slot =>
    obtain ⟨-, hconvert⟩ := (convertEnabled_iff s).1 enabled
    rw [hwait] at hconvert
    cases hconvert

theorem EventEffect.outstandingRequest_eq_or_none {e : Event} {s t : State} (h : EventEffect e s t)
    (hwait : s.phase = .wait) : outstandingRequest t = outstandingRequest s ∨ outstandingRequest t = none := by
  cases h with
  | kept e s t view => exact .inl (outstandingRequest_congr view)
  | engine s t phase effect => exact absurd hwait phase
  | source a s t enabled effect => exact .inr (effect.outstandingRequest_eq_none hwait)
  | allocFailed s r ready tooBig => exact .inr ((outstandingRequest_eq_none_iff _).2 (.inl (by simp)))
  | began s r ready fits => exact .inr ((outstandingRequest_eq_none_iff _).2 (.inr (by simp)))
  | reset s => exact .inr ((outstandingRequest_eq_none_iff _).2 (.inl (by simp)))

theorem phase_of_outstandingRequest {s : State} {q : Pos × ChunkCount} (h : outstandingRequest s = some q) :
    s.phase = .wait := by
  by_contra hphase
  rw [(outstandingRequest_eq_none_iff s).2 (.inr hphase)] at h
  cases h

/-- Settles O26: taking the next event leaves the request alone, and the event then keeps it or ends it. -/
theorem oneRequestOutstanding : Obligations.OneRequestOutstanding := by
  intro s t q hq hstep
  have htaken : outstandingRequest (takeEvent s).2 = some q :=
    (outstandingRequest_congr (engineView_takeEvent s)).trans hq
  rw [← htaken]
  exact (step_eventEffect hstep).outstandingRequest_eq_or_none (phase_of_outstandingRequest htaken)

end Sys2Proof.Machine
end

section
/-! The host's header check (70_reset_and_hazards.md R219) and its big-endian fields (20_memory.md R68). -/

namespace Sys2Proof.Machine

/-- Of four bytes joined most significant first, byte i: the bytes below it fall away one by one. -/
theorem extractLsb'_append_bytes (b : Fin 4 → Byte) :
    ∀ i : Fin 4, (b 0 ++ b 1 ++ b 2 ++ b 3).extractLsb' (8 * (3 - i.val)) 8 = b i
  | 0 => by
    show BitVec.extractLsb' 24 8 _ = _
    rw [BitVec.extractLsb'_append_eq_of_le (by omega), BitVec.extractLsb'_append_eq_of_le (by omega),
      BitVec.extractLsb'_append_eq_of_le (by omega)]
    exact BitVec.extractLsb'_eq_self
  | 1 => by
    show BitVec.extractLsb' 16 8 _ = _
    rw [BitVec.extractLsb'_append_eq_of_le (by omega), BitVec.extractLsb'_append_eq_of_le (by omega),
      BitVec.extractLsb'_append_eq_right]
  | 2 => by
    show BitVec.extractLsb' 8 8 _ = _
    rw [BitVec.extractLsb'_append_eq_of_le (by omega), BitVec.extractLsb'_append_eq_right]
  | 3 => BitVec.extractLsb'_append_eq_right

theorem extractLsb'_headerField (h : List Byte) (k : Nat) {i : Nat} (hi : i < 4) :
    (headerField h k).extractLsb' (8 * (3 - i)) 8 = h.getD (k + i) 0 :=
  extractLsb'_append_bytes (fun j => h.getD (k + j.val) 0) ⟨i, hi⟩

theorem getElem?_eq_some_headerField_byte {h : List Byte} {k i : Nat} (hi : i < 4) (hk : k + i < h.length) :
    h[k + i]? = some ((headerField h k).extractLsb' (8 * (3 - i)) 8) := by
  rw [extractLsb'_headerField h k hi, List.getElem?_eq_getElem hk, List.getD_eq_getElem h 0 hk]

/-- What an accepted header satisfies of the check's conditions on length and size, and the values the check takes. -/
theorem checkHeader_ok {h : List Byte} {off n : Word} (hok : checkHeader h = .ok (off, n)) :
    24 ≤ h.length ∧ headerField h 8 ≠ 0xFFFFFFFF ∧ off = headerField h 4 ∧ n = headerField h 8 := by
  unfold checkHeader at hok
  split_ifs at hok with hshort _ _ _ hsize
  cases hok
  exact ⟨by omega, hsize, rfl, rfl⟩

/-- Settles O46: the values are the fields at 4 and 8, and a header of 24 bytes holds every byte of both. -/
theorem headerValuesAreBigEndian : Obligations.HeaderValuesAreBigEndian := by
  intro h off n hok
  obtain ⟨hlength, hsize, rfl, rfl⟩ := checkHeader_ok hok
  exact ⟨hlength, hsize, fun i hi =>
    ⟨getElem?_eq_some_headerField_byte hi (by omega), getElem?_eq_some_headerField_byte hi (by omega)⟩⟩

end Sys2Proof.Machine
end

section
/-! The family of the encoding (30_encoding.md): the decoder by the opcode of a word, the words the assembler writes,
and the two bus operations of EXPAND. -/

namespace Sys2Proof

/-! ### The decoder by opcode (R99), on the word as a number -/

theorem reservedField_ne_zero_iff (w : Word) : w.extractLsb' 8 16 ≠ 0 ↔ w.toNat / 2 ^ 8 % 2 ^ 16 ≠ 0 := by
  rw [← reservedField_toNat]
  exact not_congr BitVec.toNat_inj.symm

theorem operand_ne_zero_iff (w : Word) : w.extractLsb' 0 24 ≠ 0 ↔ w.toNat % 2 ^ 24 ≠ 0 := by
  rw [← operand_toNat]
  exact not_congr BitVec.toNat_inj.symm

/-- The decoder's tests in its own order, on the word as a number. -/
theorem decodeCmd_eq_of_toNat (w : Word) :
    decodeCmd w =
      if w.toNat / 2 ^ 24 = 1 then
        if w.toNat / 2 ^ 8 % 2 ^ 16 ≠ 0 then .error .reservedBits else .ok (.lookup (w.extractLsb' 0 8))
      else if w.toNat / 2 ^ 24 = 2 then
        if w.toNat % 2 ^ 24 ≠ 0 then .error .reservedBits else .ok .decode
      else if w.toNat / 2 ^ 24 = 3 then .ok (.pcmRead (w.extractLsb' 0 24))
      else .error .badOpcode := by
  have hone : opcodeOf w = 0x01 ↔ w.toNat / 2 ^ 24 = 1 := opcodeOf_eq_iff w (by decide)
  have htwo : opcodeOf w = 0x02 ↔ w.toNat / 2 ^ 24 = 2 := opcodeOf_eq_iff w (by decide)
  have hthree : opcodeOf w = 0x03 ↔ w.toNat / 2 ^ 24 = 3 := opcodeOf_eq_iff w (by decide)
  simp only [decodeCmd, hone, htwo, hthree, reservedField_ne_zero_iff, operand_ne_zero_iff]

theorem decodeCmd_of_opcode_one {w : Word} (h : w.toNat / 2 ^ 24 = 1) :
    decodeCmd w = if w.toNat / 2 ^ 8 % 2 ^ 16 ≠ 0 then .error .reservedBits
      else .ok (.lookup (w.extractLsb' 0 8)) := by
  rw [decodeCmd_eq_of_toNat, if_pos h]

theorem decodeCmd_of_opcode_two {w : Word} (h : w.toNat / 2 ^ 24 = 2) :
    decodeCmd w = if w.toNat % 2 ^ 24 ≠ 0 then .error .reservedBits else .ok .decode := by
  rw [decodeCmd_eq_of_toNat, if_neg (by omega), if_pos h]

theorem decodeCmd_of_opcode_three {w : Word} (h : w.toNat / 2 ^ 24 = 3) :
    decodeCmd w = .ok (.pcmRead (w.extractLsb' 0 24)) := by
  rw [decodeCmd_eq_of_toNat, if_neg (by omega), if_neg (by omega), if_pos h]

theorem decodeCmd_of_opcode_other {w : Word} (h1 : w.toNat / 2 ^ 24 ≠ 1) (h2 : w.toNat / 2 ^ 24 ≠ 2)
    (h3 : w.toNat / 2 ^ 24 ≠ 3) : decodeCmd w = .error .badOpcode := by
  rw [decodeCmd_eq_of_toNat, if_neg h1, if_neg h2, if_neg h3]

theorem decodeCmd_of_reserved {w : Word}
    (h : w.toNat / 2 ^ 24 = 1 ∧ w.toNat / 2 ^ 8 % 2 ^ 16 ≠ 0 ∨ w.toNat / 2 ^ 24 = 2 ∧ w.toNat % 2 ^ 24 ≠ 0) :
    decodeCmd w = .error .reservedBits := by
  rcases h with ⟨hopcode, hreserved⟩ | ⟨hopcode, hreserved⟩
  · rw [decodeCmd_of_opcode_one hopcode, if_pos hreserved]
  · rw [decodeCmd_of_opcode_two hopcode, if_pos hreserved]

/-! ### Decode and encode -/

theorem decodeCmd_encode (i : Instr) : decodeCmd (encode i) = .ok i := by
  cases i with
  | lookup code =>
    have hword := encode_lookup_toNat code
    have hcode := code.isLt
    have hfield : (encode (.lookup code)).extractLsb' 0 8 = code := by
      apply BitVec.eq_of_toNat_eq
      rw [codeField_toNat, hword]
      omega
    rw [decodeCmd_of_opcode_one (by omega), if_neg (by omega), hfield]
  | decode =>
    have hword := encode_decode_toNat
    rw [decodeCmd_of_opcode_two (by omega), if_neg (by omega)]
  | pcmRead index =>
    have hword := encode_pcmRead_toNat index
    have hindex := index.isLt
    have hfield : (encode (.pcmRead index)).extractLsb' 0 24 = index := by
      apply BitVec.eq_of_toNat_eq
      rw [operand_toNat, hword]
      omega
    rw [decodeCmd_of_opcode_three (by omega), hfield]

theorem eq_encode_of_decodeCmd {w : Word} {i : Instr} (h : decodeCmd w = .ok i) : w = encode i := by
  apply BitVec.eq_of_toNat_eq
  by_cases hone : w.toNat / 2 ^ 24 = 1
  · rw [decodeCmd_of_opcode_one hone] at h
    split at h
    · cases h
    · cases h
      rw [encode_lookup_toNat, codeField_toNat]
      omega
  by_cases htwo : w.toNat / 2 ^ 24 = 2
  · rw [decodeCmd_of_opcode_two htwo] at h
    split at h
    · cases h
    · cases h
      rw [encode_decode_toNat]
      omega
  by_cases hthree : w.toNat / 2 ^ 24 = 3
  · rw [decodeCmd_of_opcode_three hthree] at h
    cases h
    rw [encode_pcmRead_toNat, operand_toNat]
    omega
  · rw [decodeCmd_of_opcode_other hone htwo hthree] at h
    cases h

/-- Settles O1: decoding inverts encoding, and a word that decodes is determined by its opcode and its fields. -/
theorem decodeEncodeExact : Obligations.DecodeEncodeExact := fun _ i =>
  ⟨eq_encode_of_decodeCmd, fun hw => hw ▸ decodeCmd_encode i⟩

/-! ### The assembler (R100) -/

theorem encode_lookup_ofNat {code : Nat} (h : code ≤ 255) :
    encode (.lookup (BitVec.ofNat 8 code)) = BitVec.ofNat 32 (0x01000000 + code) := by
  apply BitVec.eq_of_toNat_eq
  rw [encode_lookup_toNat, BitVec.toNat_ofNat, BitVec.toNat_ofNat]
  omega

theorem encode_pcmRead_ofNat {index : Nat} (h : index < 2 ^ 24) :
    encode (.pcmRead (BitVec.ofNat 24 index)) = BitVec.ofNat 32 (0x03000000 + index) := by
  apply BitVec.eq_of_toNat_eq
  rw [encode_pcmRead_toNat, BitVec.toNat_ofNat, BitVec.toNat_ofNat]
  omega

theorem assemble_lookup {code : Nat} (h : code ≤ 255) :
    assemble (.lookup code) = some (cmdWrite (encode (.lookup (BitVec.ofNat 8 code)))) :=
  if_pos (decide_eq_true h)

theorem assemble_pcmRead {index : Nat} (h : index < 2 ^ 24) :
    assemble (.pcmRead index) = some (cmdWrite (encode (.pcmRead (BitVec.ofNat 24 index)))) :=
  if_pos (decide_eq_true (Nat.le_sub_one_of_lt h))

theorem assemble_rd_named (r : Reg) : assemble (.rd (.named r)) = some (busRead r.offset) := rfl

theorem assemble_of_not_wellFormed {l : AsmLine} (h : l.wellFormed = false) : assemble l = none :=
  if_neg (by rw [h]; decide)

/-- Settles O4: inside its range an operand is added to the row's match value, and outside it no line is well formed. -/
theorem assemblerRefusesRatherThanTruncates : Obligations.AssemblerRefusesRatherThanTruncates := by
  refine ⟨fun code h => ?lookup, fun code h => ?lookupRefused, rfl, fun index h => ?pcmRead,
    fun index h => ?pcmReadRefused⟩
  case lookup =>
    rw [assemble_lookup h, encode_lookup_ofNat h]
    rfl
  case lookupRefused => exact assemble_of_not_wellFormed (decide_eq_false (by omega))
  case pcmRead =>
    rw [assemble_pcmRead h, encode_pcmRead_ofNat h]
    rfl
  case pcmReadRefused => exact assemble_of_not_wellFormed (decide_eq_false (by omega))

end Sys2Proof

namespace Sys2Proof.Machine

/-! ### The step of a write to CMD and of a register read -/

theorem step_cmdWrite_of_decode_error {w : Word} {c : CmdErr} (h : decodeCmd w = .error c) (s : State) :
    step (withEvent (.host (cmdWrite w)) s) = .next (respond .written (reject c s)) := by
  rw [step_withEvent, agentStep, hostAccess_cmdWrite, executeCmd_error h, onNext]

theorem step_cmdWrite_encode (i : Instr) (s : State) :
    step (withEvent (.host (cmdWrite (encode i))) s) = onNext (respond .written) (exec i s) := by
  rw [step_withEvent, agentStep, hostAccess_cmdWrite, executeCmd_ok (decodeCmd_encode i)]

theorem step_busRead {off : Nat} (h : off ≤ 0xFC) (h4 : off % 4 = 0) (s : State) :
    step (withEvent (.host (busRead off)) s) = .next (respond (.data (readReg off s)) s) := by
  rw [step_withEvent, agentStep, hostAccess_busRead h h4]

/-- Settles O3: the decoder refuses the word, and the write only rejects. -/
theorem illegalWordsChangeOnlyCmdErr : Obligations.IllegalWordsChangeOnlyCmdErr := fun _ s =>
  ⟨fun ⟨h1, h2, h3⟩ => step_cmdWrite_of_decode_error (decodeCmd_of_opcode_other h1 h2 h3) s,
    fun h => step_cmdWrite_of_decode_error (decodeCmd_of_reserved h) s⟩

/-! ### POLL (R101) -/

theorem statusWord_stateField (s : State) : (statusWord s).extractLsb' 0 2 = stateCode s.state := by
  have hstate := (stateCode s.state).isLt
  apply BitVec.eq_of_toNat_eq
  rw [BitVec.extractLsb'_toNat, Nat.shiftRight_zero, statusWord_toNat]
  omega

/-- Settles O10: the two bits POLL tests are STATUS.STATE, and its table gives 2 and 3 to DONE and ERROR alone. -/
theorem pollEndsAtDoneOrError : Obligations.PollEndsAtDoneOrError := by
  intro s
  rw [pollEnds, statusWord_stateField]
  cases s.state <;> decide

/-! ### EXPAND (R101) -/

theorem readReg_result (s : State) : readReg Reg.result.offset s = s.result := rfl

theorem exec_lookup (code : Byte) (s : State) :
    exec (.lookup code) s = .next (acceptResult (resultOf (lut code)) s) := rfl

theorem assemble_expand {code : Nat} (h : code ≤ 255) :
    (PseudoLine.expand code).lines.mapM assemble
      = some [cmdWrite (encode (.lookup (BitVec.ofNat 8 code))), busRead Reg.result.offset] := by
  simp [PseudoLine.lines, assemble_lookup h, assemble_rd_named]

theorem respond_acceptResult_withEvent (r : BusReply) (v : Word) (e : Event) (s : State) :
    respond r (acceptResult v (withEvent e s)) = withEvent e (respond r (acceptResult v s)) := rfl

theorem respond_respond (r q : BusReply) (s : State) : respond r (respond q s) = respond r s := rfl

theorem step_lookup (code : Byte) (s : State) :
    step (withEvent (.host (cmdWrite (encode (.lookup code)))) s)
      = .next (respond .written (acceptResult (resultOf (lut code)) s)) := by
  rw [step_cmdWrite_encode, exec_lookup, onNext]

theorem step_read_result (s : State) :
    step (withEvent (.host (busRead Reg.result.offset)) s) = .next (respond (.data s.result) s) := by
  rw [step_busRead (by decide) (by decide), readReg_result]

/-- A LOOKUP leaves the events after it as they are, so the read that comes next sees the RESULT it wrote (R216). -/
theorem run_lookup_then_read (code : Byte) (s : State) :
    Host.Core.run Sys2Proof.core 2
        (withEvent (.host (cmdWrite (encode (.lookup code)))) (withEvent (.host (busRead Reg.result.offset)) s))
      = .next (respond (.data (resultOf (lut code))) (acceptResult (resultOf (lut code)) s)) := by
  rw [run_succ (step_lookup code _), respond_acceptResult_withEvent, run_succ (step_read_result _),
    respond_result, acceptResult_result, respond_respond]
  rfl

/-- Settles O20: EXPAND's two lines assemble to a LOOKUP and a read of RESULT, run one after the other. -/
theorem expandAnswersTableEntry : Obligations.ExpandAnswersTableEntry := fun code s h =>
  ⟨_, assemble_expand h, run_lookup_then_read (BitVec.ofNat 8 code) s⟩

end Sys2Proof.Machine
end

section
/-! Every step keeps the storage invariant (40_lut.md R119; 10_state.md R27, R32, R33): one lemma per operation. -/

namespace Sys2Proof.Machine

/-! ### The commands -/

theorem storageInv_respond {s : State} (r : BusReply) (h : StorageInv s) : StorageInv (respond r s) :=
  storageInv_of_eq h rfl rfl rfl rfl rfl rfl rfl

theorem storageInv_reject {s : State} (c : CmdErr) (h : StorageInv s) : StorageInv (reject c s) :=
  storageInv_of_eq h rfl rfl rfl rfl rfl rfl rfl

theorem storageInv_acceptResult {s : State} (h : StorageInv s) (code : Byte) :
    StorageInv (acceptResult (resultOf (lut code)) s) where
  pcm_wf := h.pcm_wf
  pcm_exists := h.pcm_exists
  pcm_entry := h.pcm_entry
  pcm_unwritten := h.pcm_unwritten
  chunk_wf := h.chunk_wf
  chunk_exists := h.chunk_exists
  result_entry := ⟨code, rfl⟩

/-- A failed allocation leaves the old samples above PRODUCED = 0, the exception the invariant makes (log 7). -/
theorem storageInv_failAllocation {s : State} (h : StorageInv s) : StorageInv (failAllocation (acceptDecode s)) where
  pcm_wf := h.pcm_wf
  pcm_exists := h.pcm_exists
  pcm_entry := h.pcm_entry
  pcm_unwritten := .inl ⟨rfl, rfl⟩
  chunk_wf := h.chunk_wf
  chunk_exists := h.chunk_exists
  result_entry := h.result_entry

theorem storageInv_beginDecode {s : State} (off : Pos) (n : Word) (h : StorageInv s) :
    StorageInv (beginDecode off n (acceptDecode s)) where
  pcm_wf := Memory.wf_cleared
  pcm_exists := by simp [Memory.cleared]
  pcm_entry := by simp [Memory.cleared]
  pcm_unwritten := .inr fun j _ => Memory.read_cleared j
  chunk_wf := h.chunk_wf
  chunk_exists := h.chunk_exists
  result_entry := h.result_entry

theorem storageInv_cmdEffect {s t : State} (h : StorageInv s) (effect : CmdEffect s t) : StorageInv t := by
  cases effect with
  | rejected c => exact storageInv_reject c h
  | looked code => exact storageInv_acceptResult h code
  | sampled j v done below value =>
    obtain ⟨code, rfl⟩ := h.pcm_entry (j, v) (Memory.mem_of_read value)
    exact storageInv_acceptResult h code
  | allocFailed ready tooBig => exact storageInv_failAllocation h
  | began ready fits => exact storageInv_beginDecode _ _ h

theorem storageInv_accessEffect {s t : State} (h : StorageInv s) (effect : AccessEffect s t) : StorageInv t := by
  cases effect with
  | nothing => exact h
  | offset v => exact storageInv_of_eq h rfl rfl rfl rfl rfl rfl rfl
  | size v => exact storageInv_of_eq h rfl rfl rfl rfl rfl rfl rfl
  | command t effect => exact storageInv_cmdEffect h effect

/-! ### The engine and the source -/

/-- Outside ERROR there is no exception: no slot from PRODUCED on holds a value. -/
theorem StorageInv.unwritten_of_busy {s : State} (h : StorageInv s) (hbusy : s.state = .busy) {j : Nat}
    (hj : s.produced.toNat ≤ j) : Memory.read s.pcm j = none := by
  rcases h.pcm_unwritten with ⟨herror, -⟩ | hunwritten
  · rw [hbusy] at herror
    cases herror
  · exact hunwritten j hj

theorem storageInv_finishDecode {s : State} (h : StorageInv s) (hbusy : s.state = .busy) :
    StorageInv (finishDecode s) where
  pcm_wf := h.pcm_wf
  pcm_exists := h.pcm_exists
  pcm_entry := h.pcm_entry
  pcm_unwritten := .inr fun _ => h.unwritten_of_busy hbusy
  chunk_wf := h.chunk_wf
  chunk_exists := h.chunk_exists
  result_entry := h.result_entry

theorem storageInv_issueRequest {s : State} (r : ChunkCount) (h : StorageInv s) : StorageInv (issueRequest r s) :=
  storageInv_of_eq h rfl rfl rfl rfl rfl rfl rfl

theorem storageInv_raiseDecodeError {s : State} (code : DecErr) (h : StorageInv s) (hbusy : s.state = .busy) :
    StorageInv (raiseDecodeError code s) where
  pcm_wf := h.pcm_wf
  pcm_exists := h.pcm_exists
  pcm_entry := h.pcm_entry
  pcm_unwritten := .inr fun _ => h.unwritten_of_busy hbusy
  chunk_wf := h.chunk_wf
  chunk_exists := h.chunk_exists
  result_entry := h.result_entry

theorem storageInv_takeAnswer {s : State} {bs : List Byte} (h : StorageInv s) (hbusy : s.state = .busy)
    (hlen : bs.length ≤ chunkBytes) : StorageInv (takeAnswer bs s) where
  pcm_wf := h.pcm_wf
  pcm_exists := h.pcm_exists
  pcm_entry := h.pcm_entry
  pcm_unwritten := .inr fun _ => h.unwritten_of_busy hbusy
  chunk_wf := wf_chunkFill bs 0 s.chunk h.chunk_wf
  chunk_exists c hc := by
    rcases mem_chunkFill hc with hnew | hold
    · omega
    · exact h.chunk_exists c hold
  result_entry := h.result_entry

/-- PRODUCED stays far from its 32-bit bound wherever a slot is written: the slot exists. -/
theorem produced_succ_toNat {s : State} (hslot : s.produced.toNat < s.pcmCap) :
    (s.produced + 1).toNat = s.produced.toNat + 1 := by
  have hcap := pcmCap_le s
  exact BitVec.toNat_add_of_lt (by rw [show (1 : Word).toNat = 1 from rfl]; omega)

theorem storageInv_advanceConvert {s : State} (b : Byte) (h : StorageInv s) (hbusy : s.state = .busy)
    (hslot : s.produced.toNat < s.pcmCap) :
    StorageInv (advanceConvert (Memory.write s.pcm s.produced.toNat (lut b)) s) where
  pcm_wf := Memory.wf_write _ _ h.pcm_wf
  pcm_exists c hc := by
    rcases Memory.mem_write hc with rfl | hold
    · exact hslot
    · exact h.pcm_exists c hold
  pcm_entry c hc := by
    rcases Memory.mem_write hc with rfl | hold
    · exact ⟨b, rfl⟩
    · exact h.pcm_entry c hold
  pcm_unwritten := .inr fun j hj => by
    rw [advanceConvert_produced, produced_succ_toNat hslot] at hj
    rw [advanceConvert_pcm, Memory.read_write_other _ _ (by omega)]
    exact h.unwritten_of_busy hbusy (by omega)
  chunk_wf := h.chunk_wf
  chunk_exists := h.chunk_exists
  result_entry := h.result_entry

theorem storageInv_decodeEffect {s t : State} (h : StorageInv s) (effect : DecodeEffect s t) : StorageInv t := by
  cases effect with
  | finished enabled all =>
    obtain ⟨hbusy, -⟩ := (issueEnabled_iff s).1 enabled
    exact storageInv_finishDecode h hbusy
  | issued enabled more => exact storageInv_issueRequest _ h
  | failed enabled code why =>
    obtain ⟨hbusy, -⟩ := (answerEnabled_iff s).1 enabled
    exact storageInv_raiseDecodeError code h hbusy
  | answered enabled bs nonempty admitted =>
    obtain ⟨hbusy, -⟩ := (answerEnabled_iff s).1 enabled
    have hreq := admitsAnswer_length admitted
    have hmax : s.reqLen.val ≤ chunkBytes := Nat.le_of_lt_succ s.reqLen.isLt
    exact storageInv_takeAnswer h hbusy (hreq.trans hmax)
  | converted enabled b index value slot =>
    obtain ⟨hbusy, -⟩ := (convertEnabled_iff s).1 enabled
    exact storageInv_advanceConvert b h hbusy slot

/-! ### Every step -/

theorem storageInv_takeEvent {s : State} (h : StorageInv s) : StorageInv (takeEvent s).2 :=
  storageInv_of_eq h (by simp) (by simp) (by simp) (by simp) (by simp) (by simp) (by simp)

theorem storageInv_agentEffect {s t : State} (h : StorageInv s) (effect : AgentEffect s t) : StorageInv t := by
  cases effect with
  | nothing => exact h
  | host u r effect => exact storageInv_respond r (storageInv_accessEffect h effect)
  | decode t effect => exact storageInv_decodeEffect h effect
  | reset => exact storageInv_resetBlock s

/-- Settles O32: each operation of an agent keeps the storage invariant, and a step is one of them. -/
theorem storageInvKept : Obligations.StorageInvKept := fun _ _ hinv hstep =>
  storageInv_agentEffect (storageInv_takeEvent hinv) (step_effect hstep)

end Sys2Proof.Machine
end

section
/-! The table (40_lut.md R110 to R115) in closed form: a code's entry has the sign of bit 7 and a magnitude that rises
strictly with the inverted magnitude bits. -/

namespace Sys2Proof.Machine

/-! ### The magnitude, from exponent and mantissa -/

/-- R112's closed form: mantissa u[3:0] and exponent u[6:4] of the inverted code u. -/
theorem lutMagnitude_eq (u : Nat) : lutMagnitude u = (8 * (u % 16) + 132) * 2 ^ (u / 16 % 8) - 132 := by
  have hmantissa : u &&& 0x0F = u % 16 := Nat.and_two_pow_sub_one_eq_mod u 4
  have hexponent : u >>> 4 &&& 0x07 = u / 16 % 8 := by
    rw [Nat.shiftRight_eq_div_pow]
    exact Nat.and_two_pow_sub_one_eq_mod _ 3
  unfold lutMagnitude
  rw [hmantissa, hexponent, Nat.shiftLeft_eq, Nat.shiftLeft_eq, Nat.mul_comm (u % 16)]

/-- Bit 7 of the inverted code is the sign alone. -/
theorem lutMagnitude_mod (u : Nat) : lutMagnitude (u % 128) = lutMagnitude u := by
  rw [lutMagnitude_eq, lutMagnitude_eq, show u % 128 % 16 = u % 16 by omega,
    show u % 128 / 16 % 8 = u / 16 % 8 by omega]

/-- The next magnitude is 8 << e larger, or 12 << e where the exponent changes (R114). -/
theorem lutMagnitude_succ {k : Nat} (hk : k + 1 < 128) :
    lutMagnitude (k + 1) = lutMagnitude k + (if k % 16 = 15 then 12 else 8) * 2 ^ (k / 16) := by
  have hpow : 1 ≤ 2 ^ (k / 16) := Nat.one_le_two_pow
  rw [lutMagnitude_eq, lutMagnitude_eq, show k / 16 % 8 = k / 16 by omega]
  split
  case isTrue hlast =>
    rw [show (k + 1) % 16 = 0 by omega, show (k + 1) / 16 % 8 = k / 16 + 1 by omega, hlast, pow_succ]
    omega
  case isFalse hinside =>
    rw [show (k + 1) % 16 = k % 16 + 1 by omega, show (k + 1) / 16 % 8 = k / 16 by omega]
    have hscale : 132 ≤ (8 * (k % 16) + 132) * 2 ^ (k / 16) :=
      (Nat.le_add_left _ _).trans (Nat.le_mul_of_pos_right _ hpow)
    rw [show 8 * (k % 16 + 1) + 132 = 8 * (k % 16) + 132 + 8 by omega, Nat.add_mul]
    omega

theorem lutMagnitude_strictMonoOn : StrictMonoOn lutMagnitude (Set.Iio 128) := by
  refine strictMonoOn_of_lt_succ Set.ordConnected_Iio fun k _ _ hk => ?_
  rw [Nat.succ_eq_succ] at hk ⊢
  rw [lutMagnitude_succ hk]
  have hstep : 0 < if k % 16 = 15 then 12 else 8 := by split <;> decide
  exact Nat.lt_add_of_pos_right (Nat.mul_pos hstep (Nat.two_pow_pos _))

theorem lutMagnitude_zero : lutMagnitude 0 = 0 := by decide

theorem lutMagnitude_last : lutMagnitude 127 = 32124 := by decide

/-! ### The index of a code's magnitude -/

/-- R114's k = (~i) & 0x7F. -/
def magnitudeIndex (c : Byte) : Nat := (~~~c &&& 0x7F).toNat

theorem magnitudeIndex_eq_not_mod (c : Byte) : magnitudeIndex c = (~~~c).toNat % 128 := by
  rw [magnitudeIndex, BitVec.toNat_and]
  exact Nat.and_two_pow_sub_one_eq_mod _ 7

theorem magnitudeIndex_eq (c : Byte) : magnitudeIndex c = 127 - c.toNat % 128 := by
  have hc := c.isLt
  rw [magnitudeIndex_eq_not_mod, BitVec.toNat_not]
  omega

theorem magnitudeIndex_lt (c : Byte) : magnitudeIndex c < 128 := by
  rw [magnitudeIndex_eq]
  omega

theorem magnitudeIndex_eq_zero_iff (c : Byte) : magnitudeIndex c = 0 ↔ c = 0x7F ∨ c = 0xFF := by
  have hc := c.isLt
  rw [magnitudeIndex_eq, ← BitVec.toNat_inj, ← BitVec.toNat_inj, show (0x7F : Byte).toNat = 127 from rfl,
    show (0xFF : Byte).toNat = 255 from rfl]
  omega

theorem getLsbD_seven_iff (c : Byte) : c.getLsbD 7 = true ↔ 128 ≤ c.toNat := by
  rw [← BitVec.msb_eq_getLsbD_last (x := c), BitVec.msb_eq_decide, decide_eq_true_eq]

/-- Bit 7 of a code is no part of k. -/
theorem magnitudeIndex_xor_signBit (c : Byte) : magnitudeIndex (c ^^^ 0x80) = magnitudeIndex c := by
  unfold magnitudeIndex
  revert c
  decide

theorem getLsbD_xor_signBit (c : Byte) : (c ^^^ 0x80).getLsbD 7 = !c.getLsbD 7 := by
  simp

/-! ### The entry: sign and magnitude -/

/-- The magnitude of a code's entry. -/
def codeMagnitude (c : Byte) : Nat := lutMagnitude (magnitudeIndex c)

theorem codeMagnitude_le (c : Byte) : codeMagnitude c ≤ 32124 := by
  rw [codeMagnitude, ← lutMagnitude_last]
  exact lutMagnitude_strictMonoOn.monotoneOn (magnitudeIndex_lt c) (show 127 < 128 by decide)
    (Nat.le_of_lt_succ (magnitudeIndex_lt c))

theorem codeMagnitude_eq_iff (c : Byte) {k : Nat} (hk : k < 128) :
    codeMagnitude c = lutMagnitude k ↔ magnitudeIndex c = k :=
  lutMagnitude_strictMonoOn.injOn.eq_iff (magnitudeIndex_lt c) hk

theorem codeMagnitude_eq_zero_iff (c : Byte) : codeMagnitude c = 0 ↔ c = 0x7F ∨ c = 0xFF := by
  rw [← magnitudeIndex_eq_zero_iff, ← codeMagnitude_eq_iff c (k := 0) (by decide), lutMagnitude_zero]

theorem lut_eq_ofInt (c : Byte) :
    lut c = BitVec.ofInt 16 (if c.getLsbD 7 then (codeMagnitude c : Int) else -(codeMagnitude c : Int)) := by
  have hsign : (~~~c).toNat &&& 0x80 ≠ 0 ↔ ¬ c.getLsbD 7 = true := by
    revert c
    decide
  rw [codeMagnitude, magnitudeIndex_eq_not_mod, lutMagnitude_mod]
  simp only [lut, hsign, ite_not]

/-- The entry of a code as a signed number: no magnitude leaves the 16-bit range. -/
theorem lut_toInt (c : Byte) :
    (lut c).toInt = if c.getLsbD 7 then (codeMagnitude c : Int) else -(codeMagnitude c : Int) := by
  have hle := codeMagnitude_le c
  rw [lut_eq_ofInt, BitVec.toInt_ofInt]
  apply Int.bmod_eq_of_le <;> split <;> omega

theorem lut_natAbs (c : Byte) : (lut c).toInt.natAbs = codeMagnitude c := by
  rw [lut_toInt]
  split <;> omega

/-! ### The obligations on the table -/

/-- Settles O13: the magnitude is lutMagnitude of k, which rises strictly in k. -/
theorem lutMagnitudeOrder : Obligations.LutMagnitudeOrder := by
  intro i j
  simp only [lut_natAbs]
  have hrise : magnitudeIndex i < magnitudeIndex j → codeMagnitude i < codeMagnitude j :=
    lutMagnitude_strictMonoOn (magnitudeIndex_lt i) (magnitudeIndex_lt j)
  have hfall : i.toNat % 128 < j.toNat % 128 → codeMagnitude j < codeMagnitude i := fun hlt =>
    lutMagnitude_strictMonoOn (magnitudeIndex_lt j) (magnitudeIndex_lt i) (by
      rw [magnitudeIndex_eq, magnitudeIndex_eq]
      omega)
  have hstep (hnext : magnitudeIndex j = magnitudeIndex i + 1) : codeMagnitude j = codeMagnitude i
      + (if magnitudeIndex i % 16 = 15 then 12 else 8) * 2 ^ (magnitudeIndex i / 16) := by
    rw [codeMagnitude, hnext]
    exact lutMagnitude_succ (hnext ▸ magnitudeIndex_lt j)
  have hmax : magnitudeIndex i = 127 ↔ codeMagnitude i = 32124 := by
    rw [← codeMagnitude_eq_iff i (k := 127) (by decide), lutMagnitude_last]
  have hmin : magnitudeIndex i = 0 ↔ codeMagnitude i = 0 := by
    rw [magnitudeIndex_eq_zero_iff, codeMagnitude_eq_zero_iff]
  exact ⟨hmax, hmin, codeMagnitude_le i, hstep, hrise, fun _ => hfall⟩

/-- Settles O11: flipping bit 7 flips the sign and keeps the magnitude. -/
theorem lutSignSymmetry : Obligations.LutSignSymmetry := by
  intro i
  have hmagnitude : codeMagnitude (i ^^^ 0x80) = codeMagnitude i := congrArg lutMagnitude (magnitudeIndex_xor_signBit i)
  rw [lut_toInt, lut_toInt, getLsbD_xor_signBit, hmagnitude]
  cases i.getLsbD 7 with
  | false => rfl
  | true => exact (Int.neg_neg _).symm

/-- Settles O12: bit 7 is the sign of every entry whose magnitude is not 0. -/
theorem lutZeroAndSign : Obligations.LutZeroAndSign := by
  intro i
  have hzero := codeMagnitude_eq_zero_iff i
  rw [← BitVec.toInt_inj, lut_toInt, show (0 : Sample).toInt = 0 from rfl]
  cases hsign : i.getLsbD 7 with
  | false =>
    have hne : i ≠ 0xFF := by rintro rfl; cases hsign
    simp only [Bool.false_eq_true, if_false, hne, or_false, true_and, false_and, iff_false, ne_eq] at hzero ⊢
    rw [← hzero]
    exact ⟨by omega, by omega, by omega⟩
  | true =>
    have hne : i ≠ 0x7F := by rintro rfl; cases hsign
    simp only [Bool.true_eq_false, if_true, hne, false_or, true_and, false_and, iff_false, ne_eq] at hzero ⊢
    rw [← hzero]
    exact ⟨by omega, by omega, by omega⟩

/-! ### LOOKUP -/

theorem resultOf_toInt (v : Sample) : (resultOf v).toInt = v.toInt :=
  BitVec.toInt_signExtend_of_le (by decide)

/-- R112's form of the magnitude, read from the code itself: e = 7 - i[6:4], m = 15 - i[3:0]. -/
theorem codeMagnitude_eq (c : Byte) :
    codeMagnitude c = (8 * (15 - c.toNat % 16) + 132) * 2 ^ (7 - c.toNat / 16 % 8) - 132 := by
  rw [codeMagnitude, lutMagnitude_eq, magnitudeIndex_eq,
    show (127 - c.toNat % 128) % 16 = 15 - c.toNat % 16 by omega,
    show (127 - c.toNat % 128) / 16 % 8 = 7 - c.toNat / 16 % 8 by omega]

/-- Settles O14: RESULT takes the table's entry, whose value is its sign times R112's magnitude. -/
theorem lookupReturnsTableEntry : Obligations.LookupReturnsTableEntry := by
  intro code s
  refine ⟨resultOf (lut code), exec_lookup code s, ?_⟩
  rw [resultOf_toInt, lut_toInt, ← codeMagnitude_eq]
  simp only [getLsbD_seven_iff]
  split
  · exact (Int.one_mul _).symm
  · exact (Int.neg_one_mul _).symm

end Sys2Proof.Machine
end

section
/-! DECODE as a command (41_decode.md R130, R131): its three outcomes in full. -/

namespace Sys2Proof.Machine

theorem exec_decode (s : State) : exec .decode s = execDecode s := rfl

/-- Settles O15: the accepted branch of DECODE, whose PCM buffer is the cleared one. -/
theorem decodeAcceptedStartsDecode : Obligations.DecodeAcceptedStartsDecode := by
  intro s hready hfits
  have hoff := s.dataOffset.isLt
  refine ⟨Memory.cleared, s.dataOffset.setWidth 33, execDecode_fits hready hfits, ?_, fun j => Memory.read_cleared j⟩
  rw [BitVec.toNat_setWidth, Nat.mod_eq_of_lt (by omega)]

theorem outstandingRequest_failAllocation (s : State) : outstandingRequest (failAllocation s) = none :=
  (outstandingRequest_eq_none_iff _).2 (.inl (by simp))

/-- Settles O16: the failed allocation, which leaves the phase as it was. -/
theorem decodeTooLargeRaisesCapacity : Obligations.DecodeTooLargeRaisesCapacity := fun s hready htooBig =>
  ⟨failAllocation (acceptDecode s), s.phase, execDecode_over hready htooBig, rfl, outstandingRequest_failAllocation _⟩

/-- Settles O17: no platform has more than 2^24 slots, so the sentinel size is always too large. -/
theorem unknownLengthAlwaysFails : Obligations.UnknownLengthAlwaysFails := by
  intro s hready hsize
  have hcap := pcmCap_le s
  have htooBig : s.pcmCap < s.dataSize.toNat := by
    rw [hsize, show (0xFFFFFFFF : Word).toNat = 4294967295 from rfl]
    omega
  exact ⟨_, execDecode_over hready htooBig, rfl, rfl, rfl, outstandingRequest_failAllocation _⟩

/-- Settles O18: the state test comes first and rejects the command. -/
theorem decodeRejectedInBusyAndError : Obligations.DecodeRejectedInBusyAndError :=
  fun _ hstate => execDecode_busy hstate

end Sys2Proof.Machine
end

section
/-! What each enabled step of the engine and the source does (41_decode.md R133 to R137), and the answers that
SOURCE_MODEL admits (20_memory.md R78). -/

namespace Sys2Proof.Machine

/-! ### ENG_ISSUE -/

theorem engineStep_of_issue {s : State} (hbusy : s.state = .busy) (hissue : s.phase = .issue) :
    engineStep s = .next (engIssue s) := by
  rw [engineStep, if_pos ((issueEnabled_iff s).2 ⟨hbusy, hissue⟩)]

theorem engIssue_of_complete {s : State} (h : s.produced = s.length) : engIssue s = finishDecode s :=
  if_pos h

theorem engIssue_of_more {s : State} (h : s.produced ≠ s.length) :
    engIssue s = issueRequest (chunkCount (requestLength s)) s :=
  if_neg h

theorem chunkCount_requestLength_val (s : State) : (chunkCount (requestLength s)).val = requestLength s :=
  chunkCount_val (Nat.min_le_left _ _)

theorem outstandingRequest_of_wait {s : State} (hbusy : s.state = .busy) (hwait : s.phase = .wait) :
    outstandingRequest s = some (s.pos, s.reqLen) :=
  if_pos ((answerEnabled_iff s).2 ⟨hbusy, hwait⟩)

/-- Settles O21: the two branches of ENG_ISSUE. -/
theorem issueRequestsWhatRemains : Obligations.IssueRequestsWhatRemains := by
  intro s hbusy hissue
  rw [step_withEvent, agentStep, engineStep_of_issue hbusy hissue]
  refine ⟨fun hall => by rw [engIssue_of_complete hall]; rfl, fun hless => ?_⟩
  have hmore : s.produced ≠ s.length := fun hall => by rw [hall] at hless; exact lt_irrefl _ hless
  exact ⟨chunkCount (requestLength s), by rw [engIssue_of_more hmore]; rfl, chunkCount_requestLength_val s,
    outstandingRequest_of_wait hbusy rfl⟩

/-! ### ENG_CONVERT -/

theorem engineStep_of_convert {s : State} (hbusy : s.state = .busy) (hconvert : s.phase = .convert) :
    engineStep s = engConvert s := by
  rw [engineStep, if_neg (by simp [issueEnabled_iff, hconvert]),
    if_pos ((convertEnabled_iff s).2 ⟨hbusy, hconvert⟩)]

/-- Where R38 holds the next chunk byte is there and its slot exists, so the conversion completes. -/
theorem engConvert_of_inv {s : State} (h : EngineInv s) (hbusy : s.state = .busy) (hconvert : s.phase = .convert) :
    ∃ b, Memory.read s.chunk s.chunkIdx.val = some b
      ∧ engConvert s = .next (advanceConvert (Memory.write s.pcm s.produced.toNat (lut b)) s) := by
  obtain ⟨t, ht⟩ := engConvert_completes h hbusy hconvert
  obtain ⟨b, hindex, hb, hslot, -⟩ := engConvert_next ht
  exact ⟨b, hb, engConvert_of_value hindex hb hslot⟩

/-- Settles O24: the conversion's record update, with the slot written read back by the laws of the buffer. -/
theorem convertWritesOneSample : Obligations.ConvertWritesOneSample := by
  intro s hinv hbusy hconvert
  obtain ⟨b, hb, hstep⟩ := engConvert_of_inv hinv hbusy hconvert
  refine ⟨b, Memory.write s.pcm s.produced.toNat (lut b), chunkCount (s.chunkIdx.val + 1), hb, ?_,
    advanceConvert_chunkIdx_val hinv hbusy hconvert [], fun j => Memory.read_write _ _ _ _⟩
  rw [step_withEvent, agentStep, engineStep_of_convert hbusy hconvert, hstep, advanceConvert, hconvert]

/-! ### SRC_ANSWER -/

theorem sourceStep_of_admitted {s : State} {a : SourceAnswer} (hbusy : s.state = .busy) (hwait : s.phase = .wait)
    (hadmitted : admitsAnswer s.platform.source s.pos.toNat s.reqLen.val a = true) :
    sourceStep a s = .next (srcAnswer a s) := by
  rw [sourceStep, (answerEnabled_iff s).2 ⟨hbusy, hwait⟩, hadmitted]
  rfl

theorem srcAnswer_of_nonempty {bs : List Byte} (h : bs ≠ []) (s : State) :
    srcAnswer (.bytes bs) s = takeAnswer bs s := by
  cases bs with
  | nil => exact absurd rfl h
  | cons b bs => rfl

/-- The bytes of f at pos are the answer of that length exactly if they agree one by one. -/
theorem eq_take_drop_iff {f bs : List Byte} {pos k : Nat} (hk : k ≤ f.length - pos) :
    bs = (f.drop pos).take k ↔ bs.length = k ∧ ∀ t, t < bs.length → bs[t]? = f[pos + t]? := by
  constructor
  · intro h
    have hlen : bs.length = k := by rw [h, List.length_take, List.length_drop]; omega
    refine ⟨hlen, fun t ht => ?_⟩
    rw [h, List.getElem?_take_of_lt (by omega), List.getElem?_drop]
  · rintro ⟨hlen, hbytes⟩
    apply List.ext_getElem?
    intro t
    by_cases ht : t < bs.length
    · rw [hbytes t ht, List.getElem?_take_of_lt (by omega), List.getElem?_drop]
    · rw [List.getElem?_eq_none (by omega), List.getElem?_eq_none]
      rw [List.length_take]
      omega

theorem admitsAnswer_free_iff (pos r : Nat) (bs : List Byte) :
    admitsAnswer .free pos r (.bytes bs) = true ↔ bs.length ≤ r := by
  simp [admitsAnswer]

theorem admitsAnswer_file_iff {f bs : List Byte} {pos r : Nat} (h : bs ≠ []) :
    admitsAnswer (.file f) pos r (.bytes bs) = true
      ↔ bs.length ≤ min r (f.length - pos) ∧ ∀ t, t < bs.length → bs[t]? = f[pos + t]? := by
  have hlen := List.length_pos_iff.2 h
  simp only [admitsAnswer]
  split
  · simp only [List.isEmpty_iff, h, false_iff, not_and]
    omega
  · simp only [Bool.and_eq_true, decide_eq_true_eq]
    constructor
    · rintro ⟨⟨-, hmin⟩, hbytes⟩
      exact ⟨hmin, ((eq_take_drop_iff (by omega)).1 hbytes).2⟩
    · rintro ⟨hmin, hbytes⟩
      exact ⟨⟨hlen, hmin⟩, (eq_take_drop_iff (by omega)).2 ⟨rfl, hbytes⟩⟩

theorem admitsAnswer_fileExact_iff {f bs : List Byte} {pos r : Nat} (h : bs ≠ []) :
    admitsAnswer (.fileExact f) pos r (.bytes bs) = true
      ↔ bs.length = min r (f.length - pos) ∧ ∀ t, t < bs.length → bs[t]? = f[pos + t]? := by
  have hlen := List.length_pos_iff.2 h
  simp only [admitsAnswer]
  split
  · simp only [List.isEmpty_iff, h, false_iff, not_and]
    omega
  · rw [decide_eq_true_eq, eq_take_drop_iff (Nat.min_le_right _ _)]

/-- A FILE_EXACT source admits the bytes it has at pos, up to r of them: also none, where it has none. -/
theorem admitsAnswer_fileExact_take (f : List Byte) (pos r : Nat) :
    admitsAnswer (.fileExact f) pos r (.bytes ((f.drop pos).take r)) = true := by
  simp only [admitsAnswer]
  split
  · rename_i hend
    simp [List.drop_eq_nil_of_le hend]
  · rw [decide_eq_true_eq, List.take_eq_take_iff, List.length_drop]
    omega

/-- Settles O22: an admitted answer is short enough for the chunk buffer, and each SOURCE_MODEL's test by itself. -/
theorem answerFillsChunk : Obligations.AnswerFillsChunk := by
  intro s bs hbusy hwait hnonempty
  refine ⟨fun hadmitted => ?taken, fun hfree => ?free, fun f hfile => ?file, fun f hexact => ?fileExact⟩
  case taken =>
    have hreq := admitsAnswer_length hadmitted
    have hbound := s.reqLen.isLt
    refine ⟨chunkFill bs 0 s.chunk, chunkCount bs.length, s.pos + BitVec.ofNat 33 bs.length, ?_,
      chunkCount_val (by simp only [chunkBytes]; omega), ?_, fun t => ?_⟩
    · rw [step_withEvent, agentStep, sourceStep_of_admitted hbusy hwait hadmitted, srcAnswer_of_nonempty hnonempty]
      rfl
    · simp [BitVec.toNat_add]
    · simp [read_chunkFill]
  case free => rw [hfree]; exact admitsAnswer_free_iff _ _ _
  case file => rw [hfile]; exact admitsAnswer_file_iff hnonempty
  case fileExact => rw [hexact]; exact admitsAnswer_fileExact_iff hnonempty

end Sys2Proof.Machine
end

section
/-! Which agent leaves what alone (41_decode.md R132, R145, R146; 60_exceptions.md R190): frames read off the effect
of one event. -/

namespace Sys2Proof.Machine

/-- In BUSY no host access reaches the engine's part of the state. -/
theorem EventEffect.engineView_of_host {a : BusAccess} {s t : State} (h : EventEffect (.host a) s t)
    (hbusy : s.state = .busy) : engineView t = engineView s := by
  cases h with
  | kept e s t view => exact view
  | allocFailed s r ready tooBig => exact absurd (.inl hbusy) ((ready_iff s).2 ready)
  | began s r ready fits => exact absurd (.inl hbusy) ((ready_iff s).2 ready)

/-- Settles O35: every field listed is one that engineView shows. -/
theorem hostCannotDisturbRunningDecode : Obligations.HostCannotDisturbRunningDecode := by
  intro s t a hbusy hevent hstep
  have heffect := step_eventEffect hstep
  rw [hevent] at heffect
  have hview := (heffect.engineView_of_host (by rwa [takeEvent_state])).trans (engineView_takeEvent s)
  exact ⟨(state_of_engineView hview).trans hbusy, (congrArg State.phase hview :), (congrArg State.decErr hview :),
    (congrArg State.produced hview :), (congrArg State.length hview :), (congrArg State.pos hview :),
    (congrArg State.reqLen hview :), (congrArg State.chunkLen hview :), (congrArg State.chunkIdx hview :),
    (congrArg State.chunk hview :), (congrArg State.pcm hview :)⟩

/-- The fields that belong to the host are the same in s and t. -/
def SameHostRegisters (s t : State) : Prop :=
  t.cmdErr = s.cmdErr ∧ t.result = s.result ∧ t.dataOffset = s.dataOffset ∧ t.dataSize = s.dataSize
    ∧ t.length = s.length ∧ t.busReply = s.busReply

theorem DecodeEffect.sameHostRegisters {s t : State} (h : DecodeEffect s t) : SameHostRegisters s t := by
  cases h <;> exact ⟨rfl, rfl, rfl, rfl, rfl, rfl⟩

theorem sameHostRegisters_refl (s : State) : SameHostRegisters s s := ⟨rfl, rfl, rfl, rfl, rfl, rfl⟩

theorem sameHostRegisters_takeEvent (s t : State) : SameHostRegisters (takeEvent s).2 t ↔ SameHostRegisters s t := by
  simp only [SameHostRegisters, takeEvent_cmdErr, takeEvent_result, takeEvent_dataOffset, takeEvent_dataSize,
    takeEvent_length, takeEvent_busReply]

/-- The engine and the source do nothing, or one of the five steps of a decode. -/
theorem agentStep_decodeEffect {e : Event} {s t : State} (hagent : e = .engine ∨ ∃ a, e = .source a)
    (h : agentStep e s = .next t) : t = s ∨ DecodeEffect s t := by
  rcases hagent with rfl | ⟨a, rfl⟩
  · exact engineStep_effect h
  · exact sourceStep_effect h

/-- Settles O36: none of the five steps of a decode writes one of these fields. -/
theorem engineLeavesHostRegisters : Obligations.EngineLeavesHostRegisters := by
  intro s t hagent hstep
  refine (sameHostRegisters_takeEvent s t).1 ?_
  rcases agentStep_decodeEffect hagent hstep with rfl | heffect
  · exact sameHostRegisters_refl _
  · exact heffect.sameHostRegisters

/-- Of the steps of a decode only ENG_CONVERT writes the PCM buffer. -/
theorem DecodeEffect.convertEnabled_of_pcm {s t : State} (h : DecodeEffect s t) (hpcm : t.pcm ≠ s.pcm) :
    s.state = .busy ∧ s.phase = .convert := by
  cases h with
  | converted enabled b index value slot => exact (convertEnabled_iff s).1 enabled
  | finished | issued | failed | answered => exact absurd rfl hpcm

theorem EventEffect.pcm_change {e : Event} {s t : State} (h : EventEffect e s t) (hpcm : t.pcm ≠ s.pcm) :
    (e = .engine ∧ s.state = .busy ∧ s.phase = .convert)
      ∨ (e = .host (cmdWrite (encode .decode)) ∧ t.state = .busy) ∨ e = .reset := by
  cases h with
  | kept e s t view => exact absurd (congrArg State.pcm view :) hpcm
  | allocFailed s r ready tooBig => exact absurd rfl hpcm
  | began s r ready fits => exact .inr (.inl ⟨rfl, rfl⟩)
  | engine s t phase effect => exact .inl ⟨rfl, effect.convertEnabled_of_pcm hpcm⟩
  | source a s t enabled effect =>
    obtain ⟨-, hwait⟩ := (answerEnabled_iff s).1 enabled
    obtain ⟨-, hconvert⟩ := effect.convertEnabled_of_pcm hpcm
    rw [hwait] at hconvert
    cases hconvert
  | reset s => exact .inr (.inr rfl)

/-- Settles O37: the change is the event's, read in the state before the event was taken. -/
theorem pcmReadOnlyOutsideDecode : Obligations.PcmReadOnlyOutsideDecode := by
  intro s t hstep hpcm
  simpa only [takeEvent_state, takeEvent_phase]
    using (step_eventEffect hstep).pcm_change (by rwa [takeEvent_pcm])

end Sys2Proof.Machine
end

section
/-! What holds all along a decode over a source with the bytes f, whatever short answers it gives and whatever the host
does (41_decode.md R138, R139): the bytes held and the samples written are those of the payload. -/

namespace Sys2Proof.Machine

/-! ### Runs within BUSY -/

/-- In BUSY an event other than reset leaves the engine alone or is one of the steps of the decode. -/
theorem EventEffect.of_busy {e : Event} {s t : State} (h : EventEffect e s t) (hbusy : s.state = .busy)
    (hnoReset : t.state ≠ .idle) : engineView t = engineView s ∨ DecodeEffect s t := by
  cases h with
  | kept e s t view => exact .inl view
  | allocFailed s r ready tooBig => exact absurd (.inl hbusy) ((ready_iff s).2 ready)
  | began s r ready fits => exact absurd (.inl hbusy) ((ready_iff s).2 ready)
  | engine s t phase effect => exact .inr effect
  | source a s t enabled effect => exact .inr effect
  | reset s => exact absurd rfl hnoReset

/-- A property of the engine's part of the state. -/
def OnEngineView (P : State → Prop) : Prop := ∀ s t, engineView t = engineView s → P s → P t

/-- A property of the engine's part of the state that the steps of a decode keep, is kept by every step in BUSY that is
not a reset. -/
theorem step_keeps_of_busy {P : State → Prop} (hview : OnEngineView P)
    (hkeep : ∀ s t, P s → DecodeEffect s t → P t) {s t : State} (h : P s) (hstep : step s = .next t)
    (hbusy : s.state = .busy) (hnoReset : t.state ≠ .idle) : P t := by
  have htaken : P (takeEvent s).2 := hview _ _ (engineView_takeEvent s) h
  rcases (step_eventEffect hstep).of_busy (by rwa [takeEvent_state]) hnoReset with hsame | heffect
  · exact hview _ _ hsame htaken
  · exact hkeep _ _ htaken heffect

theorem BusyRun.tail {s u t : State} {k : Nat} (h : BusyRun (k + 1) s t) (hstep : step s = .next u) :
    BusyRun k u t := by
  obtain ⟨hend, hway⟩ := h
  refine ⟨by rwa [run_succ hstep] at hend, fun i v hi hv => hway (i + 1) v (by omega) ?_⟩
  rwa [run_succ hstep]

theorem BusyRun.head_busy {s t : State} {k : Nat} (h : BusyRun (k + 1) s t) : s.state = .busy :=
  have ⟨_, hway⟩ := h
  hway 0 s (Nat.succ_pos k) rfl

/-- The induction along a run within BUSY, to a last state that no reset has reached. -/
theorem BusyRun.keeps {P : State → Prop} (hview : OnEngineView P) (hkeep : ∀ s t, P s → DecodeEffect s t → P t)
    {k : Nat} {s t : State} (h : BusyRun k s t) (hs : P s) (ht : t.state ≠ .idle) : P t := by
  induction k generalizing s with
  | zero =>
    obtain ⟨hend, -⟩ := h
    cases hend
    exact hs
  | succ k ih =>
    obtain ⟨u, hstep, -⟩ := run_succ_next h.1
    have htail := h.tail hstep
    have hu : u.state ≠ .idle := by
      cases k with
      | zero =>
        obtain ⟨hend, -⟩ := htail
        cases hend
        exact ht
      | succ k => rw [htail.head_busy]; decide
    exact ih htail (step_keeps_of_busy hview hkeep hs hstep h.head_busy hu)

/-! ### The invariant of a decode -/

/-- The bytes held are the next bytes of the payload at off, in order (41_decode.md R142). -/
def HoldsPayload (f : List Byte) (off : Nat) (s : State) : Prop :=
  ∀ i, i < heldBytes s → ∃ code, f[off + s.produced.toNat + i]? = some code
    ∧ Memory.read s.chunk (s.chunkIdx.val + i) = some code

/-- A decode of n bytes at off, over a source that holds the bytes f, in progress or ended without reset. -/
structure DecodeInv (f : List Byte) (off n : Word) (s : State) : Prop where
  engine : EngineInv s
  source : SourceHolds f s
  length_eq : s.length = n
  position : s.state = .busy → DecodesFrom off s
  request : s.phase = .wait → s.reqLen.val = requestLength s
  held : HoldsPayload f off.toNat s
  decoded : Decoded f off.toNat s.produced.toNat s
  failed : s.state = .error →
    s.decErr = .truncated ∧ f.length ≤ off.toNat + s.produced.toNat ∧ s.produced.toNat < n.toNat

theorem decodeInv_engineView (f : List Byte) (off n : Word) (s : State) :
    DecodeInv f off n (engineView s) ↔ DecodeInv f off n s :=
  ⟨fun ⟨a, b, c, d, e, g, i, j⟩ => ⟨(engineInv_engineView s).1 a, b, c, d, e, g, i, j⟩,
    fun ⟨a, b, c, d, e, g, i, j⟩ => ⟨(engineInv_engineView s).2 a, b, c, d, e, g, i, j⟩⟩

theorem onEngineView_decodeInv (f : List Byte) (off n : Word) : OnEngineView (DecodeInv f off n) := by
  intro s t hview h
  rwa [← decodeInv_engineView, hview, decodeInv_engineView]

theorem holdsPayload_of_not_convert {f : List Byte} {off : Nat} {s : State} (h : s.phase ≠ .convert) :
    HoldsPayload f off s := by
  intro i hi
  rw [heldBytes_of_not_convert h] at hi
  omega

/-- An accepted DECODE establishes the invariant with its operands. -/
theorem decodeInv_beginDecode {f : List Byte} {s : State} (hsource : SourceHolds f s)
    (hfits : s.dataSize.toNat ≤ s.pcmCap) :
    DecodeInv f s.dataOffset s.dataSize (beginDecode (s.dataOffset.setWidth 33) s.dataSize (acceptDecode s)) where
  engine := engineInv_beginDecode hfits
  source := hsource
  length_eq := rfl
  position _ := decodesFrom_beginDecode s
  request h := by cases h
  held := holdsPayload_of_not_convert (by simp)
  decoded := fun j hj => by simp at hj
  failed h := by cases h

/-! ### Each part of it, kept by the steps of a decode -/

theorem DecodeEffect.busy {s t : State} (h : DecodeEffect s t) : s.state = .busy := by
  cases h with
  | finished enabled | issued enabled => exact ((issueEnabled_iff s).1 enabled).1
  | failed enabled | answered enabled => exact ((answerEnabled_iff s).1 enabled).1
  | converted enabled => exact ((convertEnabled_iff s).1 enabled).1

theorem DecodeEffect.length_eq {s t : State} (h : DecodeEffect s t) : t.length = s.length := by
  cases h <;> rfl

/-- A step after which the phase is WAIT has made the request, or failed and left it as it was. -/
theorem DecodeEffect.request {s t : State} (h : DecodeEffect s t)
    (hs : s.phase = .wait → s.reqLen.val = requestLength s) (ht : t.phase = .wait) :
    t.reqLen.val = requestLength t := by
  cases h with
  | finished enabled all => exact hs ht
  | issued enabled more => exact chunkCount_requestLength_val s
  | failed enabled code why => exact hs ht
  | answered enabled bs nonempty admitted => cases ht
  | converted enabled b index value slot =>
    obtain ⟨-, hconvert⟩ := (convertEnabled_iff s).1 enabled
    rw [advanceConvert_phase, hconvert] at ht
    split at ht <;> cases ht

/-- The position of an outstanding request is that of the next sample's byte. -/
theorem DecodeInv.pos_of_wait {f : List Byte} {off n : Word} {s : State} (h : DecodeInv f off n s)
    (hbusy : s.state = .busy) (hwait : s.phase = .wait) : s.pos.toNat = off.toNat + s.produced.toNat := by
  have hpos := h.position hbusy
  rwa [DecodesFrom, heldBytes_of_not_convert (by simp [hwait])] at hpos

theorem DecodeInv.request_bounds {f : List Byte} {off n : Word} {s : State} (h : DecodeInv f off n s)
    (hbusy : s.state = .busy) (hwait : s.phase = .wait) : 1 ≤ s.reqLen.val ∧ s.reqLen.val ≤ chunkBytes
      ∧ s.reqLen.val ≤ n.toNat - s.produced.toNat := by
  obtain ⟨hpos, hmin⟩ := h.engine.wait_request hbusy hwait
  rw [h.length_eq] at hmin
  omega

/-- An admitted answer brings the payload's next bytes. -/
theorem DecodeInv.held_takeAnswer {f : List Byte} {off n : Word} {s : State} {bs : List Byte}
    (h : DecodeInv f off n s) (hbusy : s.state = .busy) (hwait : s.phase = .wait)
    (hadmitted : admitsAnswer s.platform.source s.pos.toNat s.reqLen.val (.bytes bs) = true) :
    HoldsPayload f off.toNat (takeAnswer bs s) := by
  intro i hi
  obtain ⟨hone, hchunk, -⟩ := h.request_bounds hbusy hwait
  have hreq := admitsAnswer_length hadmitted
  obtain ⟨-, -, hbytes⟩ := admitsAnswer_holds h.source hone hadmitted
  rw [heldBytes_of_convert (by simp), takeAnswer_chunkLen, takeAnswer_chunkIdx, chunkCount_val (by omega)] at hi
  simp only [Fin.val_zero, Nat.sub_zero] at hi
  have hbyte := hbytes i hi
  rw [h.pos_of_wait hbusy hwait, List.getElem?_eq_getElem hi] at hbyte
  refine ⟨bs[i], hbyte.symm, ?_⟩
  rw [takeAnswer_chunk, takeAnswer_chunkIdx, Fin.val_zero, read_chunkFill, if_pos (by omega), Nat.zero_add,
    Nat.sub_zero, List.getElem?_eq_getElem hi]

/-- A conversion takes the first of the bytes held. -/
theorem DecodeInv.held_advanceConvert {f : List Byte} {off n : Word} {s : State} (h : DecodeInv f off n s)
    (hbusy : s.state = .busy) (hconvert : s.phase = .convert) (m : List (Nat × Sample)) :
    HoldsPayload f off.toNat (advanceConvert m s) := by
  intro i hi
  have hheld := heldBytes_advanceConvert h.engine hbusy hconvert m
  obtain ⟨code, hcode, hread⟩ := h.held (i + 1) (by omega)
  refine ⟨code, ?_, ?_⟩
  · rw [advanceConvert_produced_toNat h.engine hbusy hconvert, ← hcode]
    congr 1
    omega
  · rw [advanceConvert_chunk, advanceConvert_chunkIdx_val h.engine hbusy hconvert, ← hread]
    congr 1
    omega

theorem DecodeInv.held_decodeEffect {f : List Byte} {off n : Word} {s t : State} (h : DecodeInv f off n s)
    (effect : DecodeEffect s t) : HoldsPayload f off.toNat t := by
  cases effect with
  | finished enabled all =>
    obtain ⟨-, hissue⟩ := (issueEnabled_iff s).1 enabled
    exact holdsPayload_of_not_convert (by simp [hissue])
  | issued enabled more => exact holdsPayload_of_not_convert (by simp)
  | failed enabled code why =>
    obtain ⟨-, hwait⟩ := (answerEnabled_iff s).1 enabled
    exact holdsPayload_of_not_convert (by simp [hwait])
  | answered enabled bs nonempty admitted =>
    obtain ⟨hbusy, hwait⟩ := (answerEnabled_iff s).1 enabled
    exact h.held_takeAnswer hbusy hwait admitted
  | converted enabled b index value slot =>
    obtain ⟨hbusy, hconvert⟩ := (convertEnabled_iff s).1 enabled
    exact h.held_advanceConvert hbusy hconvert _

/-- The sample of a conversion is the table entry of the payload's byte PRODUCED. -/
theorem DecodeInv.decoded_advanceConvert {f : List Byte} {off n : Word} {s : State} {b : Byte}
    (h : DecodeInv f off n s) (hbusy : s.state = .busy) (hconvert : s.phase = .convert)
    (hb : Memory.read s.chunk s.chunkIdx.val = some b) :
    Decoded f off.toNat (s.produced.toNat + 1)
      (advanceConvert (Memory.write s.pcm s.produced.toNat (lut b)) s) := by
  intro j hj
  rw [advanceConvert_pcm]
  by_cases hlast : j = s.produced.toNat
  · obtain ⟨hindex, -⟩ := h.engine.convert_index hbusy hconvert
    obtain ⟨code, hcode, hread⟩ := h.held 0 (by rw [heldBytes_of_convert hconvert]; omega)
    obtain rfl : b = code := Option.some.inj (hb.symm.trans hread)
    exact ⟨b, by rw [hlast]; exact hcode, by rw [hlast, Memory.read_write_same]⟩
  · rw [Memory.read_write_other _ _ hlast]
    exact h.decoded j (by omega)

theorem DecodeInv.decoded_decodeEffect {f : List Byte} {off n : Word} {s t : State} (h : DecodeInv f off n s)
    (effect : DecodeEffect s t) : Decoded f off.toNat t.produced.toNat t := by
  cases effect with
  | converted enabled b index value slot =>
    obtain ⟨hbusy, hconvert⟩ := (convertEnabled_iff s).1 enabled
    rw [advanceConvert_produced_toNat h.engine hbusy hconvert]
    exact h.decoded_advanceConvert hbusy hconvert value
  | finished | issued | failed | answered => exact h.decoded

/-- A source with bytes never answers FAULT, and zero bytes only where the payload's next byte is missing. -/
theorem DecodeInv.failed_decodeEffect {f : List Byte} {off n : Word} {s t : State} (h : DecodeInv f off n s)
    (effect : DecodeEffect s t) (ht : t.state = .error) :
    t.decErr = .truncated ∧ f.length ≤ off.toNat + t.produced.toNat ∧ t.produced.toNat < n.toNat := by
  have hbusy := effect.busy
  cases effect with
  | failed enabled code why =>
    obtain ⟨-, hwait⟩ := (answerEnabled_iff s).1 enabled
    obtain ⟨hone, -, hleft⟩ := h.request_bounds hbusy hwait
    rcases why with ⟨rfl, hadmitted⟩ | ⟨-, hfree⟩
    · obtain ⟨-, hend, -⟩ := admitsAnswer_holds h.source hone hadmitted
      rw [h.pos_of_wait hbusy hwait] at hend
      exact ⟨rfl, hend.1 rfl, by rw [raiseDecodeError_produced]; omega⟩
    · rcases h.source with hfile | hfile <;> rw [hfree] at hfile <;> cases hfile
  | finished => cases ht
  | issued | answered | converted => exact absurd (hbusy.symm.trans ht) (by decide)

theorem decodeInv_decodeEffect {f : List Byte} {off n : Word} {s t : State} (h : DecodeInv f off n s)
    (effect : DecodeEffect s t) : DecodeInv f off n t := by
  obtain ⟨hengine, -, hposition⟩ := engineKept_decodeEffect h.engine effect
  exact {
    engine := hengine
    source := by rw [SourceHolds, effect.platform_eq]; exact h.source
    length_eq := effect.length_eq.trans h.length_eq
    position := hposition off effect.busy (h.position effect.busy)
    request := effect.request h.request
    held := h.held_decodeEffect effect
    decoded := h.decoded_decodeEffect effect
    failed := h.failed_decodeEffect effect }

/-! ### The end of a decode -/

theorem eq_beginDecode_of_exec_decode {s t : State} (hready : s.state = .idle ∨ s.state = .done)
    (hfits : s.dataSize.toNat ≤ s.pcmCap) (h : exec .decode s = .next t) :
    t = beginDecode (s.dataOffset.setWidth 33) s.dataSize (acceptDecode s) := by
  rw [exec_decode, execDecode_fits hready hfits] at h
  cases h
  rfl

/-- The invariant, in every state of a run within BUSY from an accepted DECODE. -/
theorem decodeInv_of_busyRun {f : List Byte} {s₀ s t : State} {k : Nat} (hsource : SourceHolds f s₀)
    (hready : s₀.state = .idle ∨ s₀.state = .done) (hfits : s₀.dataSize.toNat ≤ s₀.pcmCap)
    (hexec : exec .decode s₀ = .next s) (hrun : BusyRun k s t) (ht : t.state ≠ .idle) :
    DecodeInv f s₀.dataOffset s₀.dataSize t := by
  rw [eq_beginDecode_of_exec_decode hready hfits hexec] at hrun
  exact hrun.keeps (onEngineView_decodeInv _ _ _) (fun _ _ => decodeInv_decodeEffect)
    (decodeInv_beginDecode hsource hfits) ht

/-- How many bytes of the payload the source has. -/
def payloadBytes (f : List Byte) (off n : Nat) : Nat := min n (f.length - off)

/-- The samples that are decoded stand for bytes that the source has. -/
theorem Decoded.length_le {f : List Byte} {off n : Nat} {s : State} (h : Decoded f off n s) :
    n ≤ f.length - off := by
  cases n with
  | zero => exact Nat.zero_le _
  | succ n =>
    obtain ⟨code, hcode, -⟩ := h n (Nat.lt_succ_self n)
    have := (List.getElem?_eq_some_iff.1 hcode).1
    omega

/-- How a decode ends: DONE with the whole payload, or TRUNCATED at the payload's last byte there is; in both cases every
byte there is has become its sample. -/
structure DecodeEnd (f : List Byte) (off n : Nat) (t : State) : Prop where
  length : t.length.toNat = n
  produced : t.produced.toNat = payloadBytes f off n
  decoded : Decoded f off (payloadBytes f off n) t
  complete : payloadBytes f off n = n → t.state = .done ∧ t.decErr = .none
  truncated : payloadBytes f off n ≠ n → t.state = .error ∧ t.decErr = .truncated

theorem DecodeInv.decodeEnd {f : List Byte} {off n : Word} {t : State} (h : DecodeInv f off n t)
    (hend : t.state = .done ∨ t.state = .error) : DecodeEnd f off.toNat n.toNat t := by
  have hlen := h.decoded.length_le
  have hle := h.engine.produced_le_length
  rw [h.length_eq] at hle
  have hproduced : t.produced.toNat = payloadBytes f off.toNat n.toNat := by
    rcases hend with hdone | herror
    · rw [h.engine.done_complete hdone, h.length_eq] at hlen ⊢
      exact (Nat.min_eq_left hlen).symm
    · obtain ⟨-, hmissing, -⟩ := h.failed herror
      rw [payloadBytes]
      omega
  refine ⟨by rw [h.length_eq], hproduced, hproduced ▸ h.decoded, fun hall => ?_, fun hshort => ?_⟩
  · rcases hend with hdone | herror
    · exact ⟨hdone, not_not.1 fun hne => absurd (hdone.symm.trans (h.engine.decErr_iff.1 hne)) (by decide)⟩
    · obtain ⟨-, -, hless⟩ := h.failed herror
      omega
  · rcases hend with hdone | herror
    · rw [h.engine.done_complete hdone, h.length_eq] at hproduced
      exact absurd hproduced.symm hshort
    · exact ⟨herror, (h.failed herror).1⟩

theorem decodeEnd_of_busyRun {f : List Byte} {s₀ s t : State} {k : Nat} (hsource : SourceHolds f s₀)
    (hready : s₀.state = .idle ∨ s₀.state = .done) (hfits : s₀.dataSize.toNat ≤ s₀.pcmCap)
    (hexec : exec .decode s₀ = .next s) (hrun : BusyRun k s t) (hend : t.state = .done ∨ t.state = .error) :
    DecodeEnd f s₀.dataOffset.toNat s₀.dataSize.toNat t := by
  have ht : t.state ≠ .idle := by rcases hend with h | h <;> rw [h] <;> decide
  exact (decodeInv_of_busyRun hsource hready hfits hexec hrun ht).decodeEnd hend

theorem payloadBytes_eq_size_iff (f : List Byte) (off n : Nat) :
    payloadBytes f off n = n ↔ n = 0 ∨ off + n ≤ f.length := by
  rw [payloadBytes]
  omega

theorem payloadBytes_of_missing {f : List Byte} {off n : Nat} (h : ¬ (n = 0 ∨ off + n ≤ f.length)) :
    payloadBytes f off n = f.length - off := by
  rw [payloadBytes]
  omega

/-- Settles O41: the invariant along the run, read in its last state. -/
theorem decodeResultOverFile : Obligations.DecodeResultOverFile := by
  intro f s₀ s t k hsource hready hfits hexec hrun hend
  have hresult := decodeEnd_of_busyRun hsource hready hfits hexec hrun hend
  dsimp only
  split
  · rename_i hwhole
    have hall := (payloadBytes_eq_size_iff _ _ _).2 hwhole
    obtain ⟨hstate, herr⟩ := hresult.complete hall
    exact ⟨hstate, herr, hresult.produced.trans hall, hresult.length, hall ▸ hresult.decoded⟩
  · rename_i hmissing
    have hall := mt (payloadBytes_eq_size_iff _ _ _).1 hmissing
    have hbytes := payloadBytes_of_missing hmissing
    obtain ⟨hstate, herr⟩ := hresult.truncated hall
    exact ⟨hstate, herr, hresult.produced.trans hbytes, hresult.length, hbytes ▸ hresult.decoded⟩

/-! ### Two decodes of one payload -/

/-- The number of payload bytes there are can be read from the payload's own positions. -/
theorem lt_payloadBytes_iff (f : List Byte) (off n j : Nat) :
    j < payloadBytes f off n ↔ j < n ∧ (f[off + j]?).isSome := by
  rw [payloadBytes, Option.isSome_iff_ne_none, ne_eq, List.getElem?_eq_none_iff]
  omega

theorem payloadBytes_congr {f g : List Byte} {off n : Nat} (h : ∀ j, j < n → f[off + j]? = g[off + j]?) :
    payloadBytes f off n = payloadBytes g off n := by
  apply eq_of_forall_lt_iff
  intro j
  rw [lt_payloadBytes_iff, lt_payloadBytes_iff]
  exact and_congr_right fun hj => by rw [h j hj]

theorem Decoded.read_congr {f g : List Byte} {off n j : Nat} {t v : State} (ht : Decoded f off n t)
    (hv : Decoded g off n v) (hj : j < n) (h : f[off + j]? = g[off + j]?) :
    Memory.read t.pcm j = Memory.read v.pcm j := by
  obtain ⟨code, hcode, hread⟩ := ht j hj
  obtain ⟨code', hcode', hread'⟩ := hv j hj
  obtain rfl : code = code' := Option.some.inj (hcode.symm.trans (h.trans hcode'))
  rw [hread, hread']

/-- The end of a decode is fixed by the payload. -/
theorem DecodeEnd.congr {f g : List Byte} {off n : Nat} {t v : State} (ht : DecodeEnd f off n t)
    (hv : DecodeEnd g off n v) (h : ∀ j, j < n → f[off + j]? = g[off + j]?) :
    t.state = v.state ∧ t.decErr = v.decErr ∧ t.produced = v.produced
      ∧ ∀ j, j < t.produced.toNat → Memory.read t.pcm j = Memory.read v.pcm j := by
  have hbytes := payloadBytes_congr h
  have hstatus : t.state = v.state ∧ t.decErr = v.decErr := by
    by_cases hall : payloadBytes f off n = n
    · obtain ⟨hts, hte⟩ := ht.complete hall
      obtain ⟨hvs, hve⟩ := hv.complete (hbytes ▸ hall)
      exact ⟨hts.trans hvs.symm, hte.trans hve.symm⟩
    · obtain ⟨hts, hte⟩ := ht.truncated hall
      obtain ⟨hvs, hve⟩ := hv.truncated (hbytes ▸ hall)
      exact ⟨hts.trans hvs.symm, hte.trans hve.symm⟩
  obtain ⟨hstate, herr⟩ := hstatus
  refine ⟨hstate, herr, BitVec.eq_of_toNat_eq (by rw [ht.produced, hv.produced, hbytes]), fun j hj => ?_⟩
  rw [ht.produced] at hj
  exact ht.decoded.read_congr (hbytes ▸ hv.decoded) hj (h j ((lt_payloadBytes_iff f off n j).1 hj).1)

/-- Settles O45: both runs end as the one payload says. -/
theorem samePayloadSameResult : Obligations.SamePayloadSameResult := by
  intro f g s₀ s t u₀ u v k l hf hg hready hready' hfits hfits' hoff hsize hsame hexec hexec' hrun hrun' hend hend'
  have ht := decodeEnd_of_busyRun hf hready hfits hexec hrun hend
  have hv := decodeEnd_of_busyRun hg hready' hfits' hexec' hrun' hend'
  rw [← hoff, ← hsize] at hv
  exact ht.congr hv hsame

end Sys2Proof.Machine
end

section
/-! A decode over a FILE_EXACT source (20_memory.md R78): every answer is as long as it can be, so requests fall on whole
chunks (41_decode.md R140), and driven by its own steps the decode ends after an exact number of them (R139, R218). -/

namespace Sys2Proof.Machine

/-! ### The bytes taken from the source -/

/-- The bytes of the payload taken from the source: converted, or held (41_decode.md R142). -/
def takenBytes (s : State) : Nat := s.produced.toNat + heldBytes s

theorem takenBytes_congr {s t : State} (h : engineView t = engineView s) : takenBytes t = takenBytes s :=
  (congrArg takenBytes h :)

theorem takenBytes_of_not_convert {s : State} (h : s.phase ≠ .convert) : takenBytes s = s.produced.toNat := by
  rw [takenBytes, heldBytes_of_not_convert h, Nat.add_zero]

theorem takenBytes_takeAnswer {s : State} {bs : List Byte} (hwait : s.phase = .wait) (hlen : bs.length ≤ chunkBytes) :
    takenBytes (takeAnswer bs s) = takenBytes s + bs.length := by
  rw [takenBytes_of_not_convert (s := s) (by simp [hwait]), takenBytes, heldBytes_of_convert (by simp),
    takeAnswer_chunkLen, takeAnswer_chunkIdx, chunkCount_val hlen]
  rfl

theorem takenBytes_advanceConvert {s : State} (h : EngineInv s) (hbusy : s.state = .busy)
    (hconvert : s.phase = .convert) (m : List (Nat × Sample)) :
    takenBytes (advanceConvert m s) = takenBytes s := by
  have hheld := heldBytes_advanceConvert h hbusy hconvert m
  rw [takenBytes, takenBytes, advanceConvert_produced_toNat h hbusy hconvert]
  omega

/-! ### The length of an answer -/

/-- A decode of n bytes at off over a FILE_EXACT source of the bytes f. -/
structure ExactInv (f : List Byte) (off n : Word) (s : State) : Prop where
  decode : DecodeInv f off n s
  source_eq : s.platform.source = .fileExact f

theorem onEngineView_exactInv (f : List Byte) (off n : Word) : OnEngineView (ExactInv f off n) :=
  fun s t hview h => ⟨onEngineView_decodeInv f off n s t hview h.decode,
    by rw [platform_of_engineView hview, h.source_eq]⟩

theorem exactInv_decodeEffect {f : List Byte} {off n : Word} {s t : State} (h : ExactInv f off n s)
    (effect : DecodeEffect s t) : ExactInv f off n t :=
  ⟨decodeInv_decodeEffect h.decode effect, by rw [effect.platform_eq, h.source_eq]⟩

theorem exactInv_beginDecode {f : List Byte} {s : State} (hexact : s.platform.source = .fileExact f)
    (hfits : s.dataSize.toNat ≤ s.pcmCap) :
    ExactInv f s.dataOffset s.dataSize (beginDecode (s.dataOffset.setWidth 33) s.dataSize (acceptDecode s)) :=
  ⟨decodeInv_beginDecode (.inr hexact) hfits, hexact⟩

/-- The length of a FILE_EXACT answer: a whole chunk, or what the payload has left. -/
theorem DecodeInv.exact_length {f : List Byte} {off n : Word} {s : State} (h : DecodeInv f off n s)
    (hbusy : s.state = .busy) (hwait : s.phase = .wait) :
    min s.reqLen.val (f.length - s.pos.toNat) = min 1024 (payloadBytes f off.toNat n.toNat - takenBytes s) := by
  rw [takenBytes_of_not_convert (by simp [hwait]), h.request hwait, h.pos_of_wait hbusy hwait, requestLength,
    h.length_eq, payloadBytes, chunkBytes]
  omega

/-! ### Requests on whole chunks -/

/-- The bytes taken are whole chunks, or the payload. -/
def WholeChunks (n : Nat) (s : State) : Prop := 1024 ∣ takenBytes s ∨ takenBytes s = n

theorem wholeChunks_of_taken_eq {n : Nat} {s t : State} (h : WholeChunks n s) (heq : takenBytes t = takenBytes s) :
    WholeChunks n t := by
  rwa [WholeChunks, heq]

theorem wholeChunks_beginDecode (off : Pos) (n : Nat) (size : Word) (s : State) :
    WholeChunks n (beginDecode off size (acceptDecode s)) := by
  left
  rw [takenBytes_of_not_convert (by simp)]
  simp

/-- Where the whole payload is there, an answer is a whole chunk or takes the payload's last byte. -/
theorem wholeChunks_takeAnswer {f bs : List Byte} {off n : Word} {s : State} (h : ExactInv f off n s)
    (hthere : off.toNat + n.toNat ≤ f.length) (hchunks : WholeChunks n.toNat s) (hbusy : s.state = .busy)
    (hwait : s.phase = .wait) (hnonempty : bs ≠ [])
    (hadmitted : admitsAnswer s.platform.source s.pos.toNat s.reqLen.val (.bytes bs) = true) :
    WholeChunks n.toNat (takeAnswer bs s) := by
  obtain ⟨-, hchunk, -⟩ := h.decode.request_bounds hbusy hwait
  have hreq := admitsAnswer_length hadmitted
  rw [h.source_eq, admitsAnswer_fileExact_iff hnonempty, h.decode.exact_length hbusy hwait,
    (payloadBytes_eq_size_iff _ _ _).2 (.inr hthere)] at hadmitted
  obtain ⟨hlen, -⟩ := hadmitted
  rw [WholeChunks, takenBytes_takeAnswer hwait (by omega)]
  unfold WholeChunks at hchunks
  omega

theorem wholeChunks_decodeEffect {f : List Byte} {off n : Word} {s t : State} (h : ExactInv f off n s)
    (hthere : off.toNat + n.toNat ≤ f.length) (hchunks : WholeChunks n.toNat s) (effect : DecodeEffect s t) :
    WholeChunks n.toNat t := by
  cases effect with
  | finished | failed => exact hchunks
  | issued enabled more =>
    obtain ⟨-, hissue⟩ := (issueEnabled_iff s).1 enabled
    refine wholeChunks_of_taken_eq hchunks ?_
    rw [takenBytes_of_not_convert (by simp), takenBytes_of_not_convert (by simp [hissue]), issueRequest_produced]
  | answered enabled bs nonempty admitted =>
    obtain ⟨hbusy, hwait⟩ := (answerEnabled_iff s).1 enabled
    exact wholeChunks_takeAnswer h hthere hchunks hbusy hwait nonempty admitted
  | converted enabled b index value slot =>
    obtain ⟨hbusy, hconvert⟩ := (convertEnabled_iff s).1 enabled
    exact wholeChunks_of_taken_eq hchunks (takenBytes_advanceConvert h.decode.engine hbusy hconvert _)

/-- What holds all along a decode over FILE_EXACT with the whole payload there. -/
structure ChunkedInv (f : List Byte) (off n : Word) (s : State) : Prop where
  inv : ExactInv f off n s
  chunks : WholeChunks n.toNat s

theorem onEngineView_chunkedInv (f : List Byte) (off n : Word) : OnEngineView (ChunkedInv f off n) :=
  fun s t hview h => ⟨onEngineView_exactInv f off n s t hview h.inv,
    wholeChunks_of_taken_eq h.chunks (takenBytes_congr hview)⟩

theorem chunkedInv_decodeEffect {f : List Byte} {off n : Word} {s t : State} (hthere : off.toNat + n.toNat ≤ f.length)
    (h : ChunkedInv f off n s) (effect : DecodeEffect s t) : ChunkedInv f off n t :=
  ⟨exactInv_decodeEffect h.inv effect, wholeChunks_decodeEffect h.inv hthere h.chunks effect⟩

/-- A request made on whole chunks is R140's. -/
theorem request_of_wholeChunks {f : List Byte} {off n : Word} {s : State} (h : DecodeInv f off n s)
    (hchunks : WholeChunks n.toNat s) (hbusy : s.state = .busy) (hwait : s.phase = .wait) :
    ∃ i, s.produced.toNat = 1024 * i ∧ 1024 * i < n.toNat ∧ s.pos.toNat = off.toNat + 1024 * i
      ∧ s.reqLen.val = min 1024 (n.toNat - 1024 * i) := by
  obtain ⟨hone, -, hleft⟩ := h.request_bounds hbusy hwait
  have hpos := h.pos_of_wait hbusy hwait
  have hreq := h.request hwait
  rw [WholeChunks, takenBytes_of_not_convert (by simp [hwait])] at hchunks
  obtain ⟨i, hi⟩ : 1024 ∣ s.produced.toNat := hchunks.resolve_right (by omega)
  rw [requestLength, h.length_eq, hi] at hreq
  exact ⟨i, hi, by omega, by rw [hpos, hi], hreq⟩

/-- Settles O44: the bytes taken stay whole chunks along the run, and in WAIT they are the samples produced. -/
theorem exactRequestsAreWholeChunks : Obligations.ExactRequestsAreWholeChunks := by
  intro f s₀ s t k hexact hready hfits hexec hthere hrun p r hrequest
  obtain ⟨hbusy, hwait⟩ : t.state = .busy ∧ t.phase = .wait := by
    have hsome : ¬ outstandingRequest t = none := by simp [hrequest]
    simpa [outstandingRequest_eq_none_iff] using hsome
  rw [eq_beginDecode_of_exec_decode hready hfits hexec] at hrun
  have hinv := hrun.keeps (onEngineView_chunkedInv _ _ _) (fun _ _ => chunkedInv_decodeEffect hthere)
    ⟨exactInv_beginDecode hexact hfits, wholeChunks_beginDecode _ _ _ _⟩ (by rw [hbusy]; decide)
  rw [outstandingRequest_of_wait hbusy hwait] at hrequest
  cases hrequest
  exact request_of_wholeChunks hinv.inv.decode hinv.chunks hbusy hwait

/-! ### The steps left of a driven decode -/

/-- The steps of engine and source until a decode of n bytes ends, where the source has a of them: a conversion for each
sample not yet produced, a request and its answer for each chunk not yet taken, and then ENG_ISSUE, with the empty answer
to it where bytes are missing. In WAIT the request is made already. -/
def exactStepsLeft (a n : Nat) (s : State) : Nat :=
  (a - s.produced.toNat) + 2 * ((a - takenBytes s + 1023) / 1024) + (if a = n then 1 else 2)
    - (if s.phase = .wait then 1 else 0)

theorem exactStepsLeft_of_not_wait {a n : Nat} {s : State} (h : s.phase ≠ .wait) :
    exactStepsLeft a n s
      = (a - s.produced.toNat) + 2 * ((a - takenBytes s + 1023) / 1024) + (if a = n then 1 else 2) := by
  rw [exactStepsLeft, if_neg h, Nat.sub_zero]

theorem exactStepsLeft_of_wait {a n : Nat} {s : State} (h : s.phase = .wait) :
    exactStepsLeft a n s + 1
      = (a - s.produced.toNat) + 2 * ((a - s.produced.toNat + 1023) / 1024) + (if a = n then 1 else 2) := by
  rw [exactStepsLeft, if_pos h, takenBytes_of_not_convert (by simp [h])]
  split <;> omega

theorem exactStepsLeft_of_issue {a n : Nat} {s : State} (h : s.phase = .issue) :
    exactStepsLeft a n s
      = (a - s.produced.toNat) + 2 * ((a - s.produced.toNat + 1023) / 1024) + (if a = n then 1 else 2) := by
  rw [exactStepsLeft_of_not_wait (by simp [h]), takenBytes_of_not_convert (by simp [h])]

theorem exactStepsLeft_beginDecode (a n : Nat) (off : Pos) (size : Word) (s : State) :
    exactStepsLeft a n (beginDecode off size (acceptDecode s))
      = a + 2 * ((a + 1023) / 1024) + (if a = n then 1 else 2) :=
  exactStepsLeft_of_issue rfl

theorem DecodeInv.produced_le_payloadBytes {f : List Byte} {off n : Word} {s : State} (h : DecodeInv f off n s) :
    s.produced.toNat ≤ payloadBytes f off.toNat n.toNat := by
  have hle := h.engine.produced_le_length
  rw [h.length_eq] at hle
  exact le_min hle h.decoded.length_le

/-- A step of the decode from s in BUSY to t, of those that s has left exactly one: it goes on in BUSY with the others
left, or it was the last one. -/
def DrivenStep (a n : Nat) (s t : State) : Prop :=
  DecodeEffect s t
    ∧ (t.state = .busy ∧ exactStepsLeft a n t + 1 = exactStepsLeft a n s
      ∨ (t.state = .done ∨ t.state = .error) ∧ exactStepsLeft a n s = 1)

theorem drivenStep_issue {f : List Byte} {off n : Word} {s : State} (h : ExactInv f off n s)
    (hbusy : s.state = .busy) (hissue : s.phase = .issue) :
    DrivenStep (payloadBytes f off.toNat n.toNat) n.toNat s (engIssue s) := by
  have henabled := (issueEnabled_iff s).2 ⟨hbusy, hissue⟩
  by_cases hall : s.produced = s.length
  · rw [engIssue_of_complete hall]
    refine ⟨.finished henabled hall, .inr ⟨.inl rfl, ?_⟩⟩
    have hle := h.decode.produced_le_payloadBytes
    have hmin : payloadBytes f off.toNat n.toNat ≤ n.toNat := Nat.min_le_left _ _
    rw [hall, h.decode.length_eq] at hle
    rw [exactStepsLeft_of_issue hissue, hall, h.decode.length_eq, if_pos (by omega)]
    omega
  · rw [engIssue_of_more hall]
    refine ⟨.issued henabled hall, .inl ⟨hbusy, ?_⟩⟩
    rw [exactStepsLeft_of_wait (by simp), exactStepsLeft_of_issue hissue, issueRequest_produced]

theorem drivenStep_convert {f : List Byte} {off n : Word} {s t : State} (h : ExactInv f off n s)
    (hbusy : s.state = .busy) (hconvert : s.phase = .convert) (hstep : engConvert s = .next t) :
    DrivenStep (payloadBytes f off.toNat n.toNat) n.toNat s t := by
  obtain ⟨b, hindex, hb, hslot, rfl⟩ := engConvert_next hstep
  have heffect : DecodeEffect s _ := .converted ((convertEnabled_iff s).2 ⟨hbusy, hconvert⟩) b hindex hb hslot
  refine ⟨heffect, .inl ⟨hbusy, ?_⟩⟩
  have hle := (exactInv_decodeEffect h heffect).decode.produced_le_payloadBytes
  rw [advanceConvert_produced_toNat h.decode.engine hbusy hconvert] at hle
  rw [exactStepsLeft_of_not_wait (by rw [advanceConvert_phase, hconvert]; split <;> decide),
    exactStepsLeft_of_not_wait (by simp [hconvert]), advanceConvert_produced_toNat h.decode.engine hbusy hconvert,
    takenBytes_advanceConvert h.decode.engine hbusy hconvert]
  omega

/-- The bytes a FILE_EXACT source answers the outstanding request with. -/
def exactAnswer (f : List Byte) (s : State) : List Byte := (f.drop s.pos.toNat).take s.reqLen.val

theorem ExactInv.admits_exactAnswer {f : List Byte} {off n : Word} {s : State} (h : ExactInv f off n s) :
    admitsAnswer s.platform.source s.pos.toNat s.reqLen.val (.bytes (exactAnswer f s)) = true := by
  rw [h.source_eq]
  exact admitsAnswer_fileExact_take f _ _

theorem ExactInv.exactAnswer_length {f : List Byte} {off n : Word} {s : State} (h : ExactInv f off n s)
    (hbusy : s.state = .busy) (hwait : s.phase = .wait) :
    (exactAnswer f s).length = min 1024 (payloadBytes f off.toNat n.toNat - s.produced.toNat) := by
  rw [exactAnswer, List.length_take, List.length_drop, h.decode.exact_length hbusy hwait,
    takenBytes_of_not_convert (by simp [hwait])]

theorem drivenStep_wait {f : List Byte} {off n : Word} {s : State} (h : ExactInv f off n s)
    (hbusy : s.state = .busy) (hwait : s.phase = .wait) :
    DrivenStep (payloadBytes f off.toNat n.toNat) n.toNat s (srcAnswer (.bytes (exactAnswer f s)) s) := by
  have henabled := (answerEnabled_iff s).2 ⟨hbusy, hwait⟩
  have hadmitted := h.admits_exactAnswer
  have hlen := h.exactAnswer_length hbusy hwait
  have hle := h.decode.produced_le_payloadBytes
  have hleft := exactStepsLeft_of_wait (a := payloadBytes f off.toNat n.toNat) (n := n.toNat) hwait
  by_cases hempty : exactAnswer f s = []
  · rw [hempty] at hadmitted hlen ⊢
    refine ⟨.failed henabled _ (.inl ⟨rfl, hadmitted⟩), .inr ⟨.inr rfl, ?_⟩⟩
    obtain ⟨hone, -, hmore⟩ := h.decode.request_bounds hbusy hwait
    rw [List.length_nil] at hlen
    rw [if_neg (by omega)] at hleft
    omega
  · rw [srcAnswer_of_nonempty hempty]
    refine ⟨.answered henabled _ hempty hadmitted, .inl ⟨hbusy, ?_⟩⟩
    have hpos := List.length_pos_iff.2 hempty
    rw [exactStepsLeft_of_not_wait (by simp), takenBytes_takeAnswer hwait (by simp only [chunkBytes]; omega),
      takenBytes_of_not_convert (by simp [hwait]), takeAnswer_produced]
    omega

/-! ### Driving -/

theorem decodeEvent_of_wait {f : List Byte} {s : State} (hbusy : s.state = .busy) (hwait : s.phase = .wait) :
    decodeEvent f s = .source (.bytes (exactAnswer f s)) :=
  if_pos ((answerEnabled_iff s).2 ⟨hbusy, hwait⟩)

theorem decodeEvent_of_not_wait {f : List Byte} {s : State} (h : s.phase ≠ .wait) : decodeEvent f s = .engine :=
  if_neg (by simp [answerEnabled_iff, h])

/-- In BUSY the driven event's step completes, and it is one of exactly as many as are left. -/
theorem step_decodeEvent {f : List Byte} {off n : Word} {s : State} (h : ExactInv f off n s)
    (hbusy : s.state = .busy) : ∃ t, step (withEvent (decodeEvent f s) s) = .next t
      ∧ DrivenStep (payloadBytes f off.toNat n.toNat) n.toNat s t := by
  cases hphase : s.phase with
  | issue =>
    refine ⟨engIssue s, ?_, drivenStep_issue h hbusy hphase⟩
    rw [decodeEvent_of_not_wait (by simp [hphase]), step_withEvent, agentStep, engineStep_of_issue hbusy hphase]
  | wait =>
    refine ⟨_, ?_, drivenStep_wait h hbusy hphase⟩
    rw [decodeEvent_of_wait hbusy hphase, step_withEvent, agentStep,
      sourceStep_of_admitted hbusy hphase h.admits_exactAnswer]
  | convert =>
    obtain ⟨t, ht⟩ := engConvert_completes h.decode.engine hbusy hphase
    refine ⟨t, ?_, drivenStep_convert h hbusy hphase ht⟩
    rw [decodeEvent_of_not_wait (by simp [hphase]), step_withEvent, agentStep, engineStep_of_convert hbusy hphase, ht]

theorem drive_succ {f : List Byte} {s t : State} (h : step (withEvent (decodeEvent f s) s) = .next t) (k : Nat) :
    drive f (k + 1) s = drive f k t := by
  rw [drive, h]

/-- Driven from s, the decode is BUSY for k steps and ends with the next one. -/
def DrivenEnd (f : List Byte) (off n : Nat) (k : Nat) (s : State) : Prop :=
  ∃ t, drive f k s = .next t ∧ DecodeEnd f off n t
    ∧ ∀ i, i < k → ∃ u, drive f i s = .next u ∧ u.state = .busy

/-- A decode in BUSY ends after exactly the steps it has left, by induction on their number. -/
theorem drivenEnd_exactStepsLeft {f : List Byte} {off n : Word} {s : State} (h : ExactInv f off n s)
    (hbusy : s.state = .busy) :
    DrivenEnd f off.toNat n.toNat (exactStepsLeft (payloadBytes f off.toNat n.toNat) n.toNat s) s := by
  obtain ⟨k, hk⟩ : ∃ k, exactStepsLeft (payloadBytes f off.toNat n.toNat) n.toNat s = k := ⟨_, rfl⟩
  rw [hk]
  induction k generalizing s with
  | zero =>
    obtain ⟨t, -, -, ⟨-, hleft⟩ | ⟨-, hleft⟩⟩ := step_decodeEvent h hbusy <;> omega
  | succ k ih =>
    obtain ⟨t, hstep, heffect, ⟨htbusy, hleft⟩ | ⟨hend, hleft⟩⟩ := step_decodeEvent h hbusy
    · obtain ⟨v, hv, hresult, hway⟩ := ih (exactInv_decodeEffect h heffect) htbusy (by omega)
      refine ⟨v, by rw [drive_succ hstep, hv], hresult, fun i hi => ?_⟩
      cases i with
      | zero => exact ⟨s, rfl, hbusy⟩
      | succ i => rw [drive_succ hstep]; exact hway i (by omega)
    · obtain rfl : k = 0 := by omega
      refine ⟨t, drive_succ hstep 0, (exactInv_decodeEffect h heffect).decode.decodeEnd hend, fun i hi => ?_⟩
      obtain rfl : i = 0 := by omega
      exact ⟨s, rfl, hbusy⟩

/-- The number of steps of a driven decode, from its start. -/
theorem drivenEnd_of_execDecode {f : List Byte} {s₀ s : State} (hexact : s₀.platform.source = .fileExact f)
    (hready : s₀.state = .idle ∨ s₀.state = .done) (hfits : s₀.dataSize.toNat ≤ s₀.pcmCap)
    (hexec : exec .decode s₀ = .next s) {a : Nat}
    (ha : payloadBytes f s₀.dataOffset.toNat s₀.dataSize.toNat = a) :
    DrivenEnd f s₀.dataOffset.toNat s₀.dataSize.toNat
      (a + 2 * ((a + 1023) / 1024) + (if a = s₀.dataSize.toNat then 1 else 2)) s := by
  rw [eq_beginDecode_of_exec_decode hready hfits hexec, ← exactStepsLeft_beginDecode _ _ (s₀.dataOffset.setWidth 33)
    s₀.dataSize s₀, ← ha]
  exact drivenEnd_exactStepsLeft (exactInv_beginDecode hexact hfits) rfl

/-- Settles O42: all n bytes are there, and the last step is ENG_ISSUE. -/
theorem decodeCompletesWhenDriven : Obligations.DecodeCompletesWhenDriven := by
  intro f s₀ s hexact hready hfits hexec hthere
  have hall := (payloadBytes_eq_size_iff _ _ _).2 (.inr hthere)
  obtain ⟨t, hdrive, hresult, hway⟩ := drivenEnd_of_execDecode hexact hready hfits hexec hall
  rw [if_pos rfl] at hdrive hway
  exact ⟨t, hdrive, (hresult.complete hall).1, hresult.produced.trans hall, hall ▸ hresult.decoded, hway⟩

/-- Settles O43: after the bytes there are, one more request gets the empty answer. -/
theorem truncatedDecodeFailsWhenDriven : Obligations.TruncatedDecodeFailsWhenDriven := by
  intro f s₀ s hexact hready hfits hexec hsize hmissing
  have hnotAll : ¬ (s₀.dataSize.toNat = 0 ∨ s₀.dataOffset.toNat + s₀.dataSize.toNat ≤ f.length) := by omega
  have hbytes := payloadBytes_of_missing hnotAll
  obtain ⟨t, hdrive, hresult, hway⟩ := drivenEnd_of_execDecode hexact hready hfits hexec hbytes
  rw [if_neg (by omega)] at hdrive hway
  obtain ⟨hstate, herr⟩ := hresult.truncated (mt (payloadBytes_eq_size_iff _ _ _).1 hnotAll)
  exact ⟨t, hdrive, hstate, herr, hresult.produced.trans hbytes, hbytes ▸ hresult.decoded, hway⟩

end Sys2Proof.Machine
end

section
/-! The family of the host's accesses (42_host_access.md R160 to R164): the register map as an inverse of the offsets,
the value of each register, what each write does, and who changes CMD_ERR. -/

namespace Sys2Proof

/-- The map of the window inverts the offsets of R22. -/
theorem regAt_eq_some_iff {off : Nat} {r : Reg} : regAt off = some r ↔ off = r.offset := by
  constructor
  · intro h
    unfold regAt at h
    split_ifs at h <;> cases h <;> assumption
  · rintro rfl
    cases r <;> rfl

@[simp] theorem regAt_offset (r : Reg) : regAt r.offset = some r := regAt_eq_some_iff.2 rfl

theorem Reg.offset_le (r : Reg) : r.offset ≤ 0x1C := by
  cases r <;> decide

theorem Reg.offset_aligned (r : Reg) : r.offset % 4 = 0 := by
  cases r <;> rfl

/-- Everything from 0x20 up is reserved. -/
theorem regAt_of_reserved {off : Nat} (h : 0x20 ≤ off) : regAt off = none := by
  rw [Option.eq_none_iff_forall_ne_some]
  intro r hr
  have hle := r.offset_le
  have hoff := regAt_eq_some_iff.1 hr
  omega

theorem tableWord_of_toNat (w : Word) : tableWord 32 w.toNat = w := by
  rw [tableWord, Nat.mod_eq_of_lt w.isLt, BitVec.ofNat_toNat, BitVec.setWidth_eq]

end Sys2Proof

namespace Sys2Proof.Machine

/-! ### PCM_READ -/

theorem exec_pcmRead (index : BitVec 24) (s : State) : exec (.pcmRead index) s = execPcmRead index s := rfl

/-- Settles O19: the three branches of PCM_READ; in DONE R38 gives every slot below LENGTH a value. -/
theorem pcmReadByStateAndIndex : Obligations.PcmReadByStateAndIndex := by
  intro index s
  refine ⟨fun hstate => execPcmRead_badState hstate, fun hdone hindex => execPcmRead_range hdone hindex,
    fun hinv hdone hindex => ?_⟩
  obtain ⟨v, hv⟩ := pcmRead_ok_of_done hinv hdone hindex
  refine ⟨v, (pcmRead_ok hv).2, ?_⟩
  rw [exec_pcmRead, execPcmRead_read hdone hindex, hv]
  rfl

/-! ### Reads -/

@[simp] theorem readReg_offset (r : Reg) (s : State) : readReg r.offset s = regValue r s := by
  rw [readReg, regAt_offset]

theorem readReg_of_reserved {off : Nat} (h : 0x20 ≤ off) (s : State) : readReg off s = 0 := by
  rw [readReg, regAt_of_reserved h]

/-- A read of a named register answers its value (R161). -/
theorem step_read_named (r : Reg) (s : State) :
    step (withEvent (.host (busRead r.offset)) s) = .next (respond (.data (regValue r s)) s) := by
  have hle := r.offset_le
  rw [step_busRead (by omega) r.offset_aligned, readReg_offset]

theorem step_read_reserved {off : Nat} (hlo : 0x20 ≤ off) (hhi : off ≤ 0xFC) (haligned : off % 4 = 0) (s : State) :
    step (withEvent (.host (busRead off)) s) = .next (respond (.data 0) s) := by
  rw [step_busRead hhi haligned, readReg_of_reserved hlo]

/-- Settles O6: one read per named register, and the reserved offsets. -/
theorem registerReadsOfWindow : Obligations.RegisterReadsOfWindow := fun s =>
  ⟨step_read_named .cmd s, step_read_named .status s, step_read_named .dataOffset s, step_read_named .dataSize s,
    step_read_named .result s, step_read_named .produced s, step_read_named .length s, step_read_named .capacity s,
    fun _ hlo hhi haligned => step_read_reserved hlo hhi haligned s⟩

/-! ### Writes -/

theorem writeReg_cmd (v : Word) (s : State) : writeReg Reg.cmd.offset v s = executeCmd v s := rfl

theorem writeReg_dataOffset (v : Word) (s : State) :
    writeReg Reg.dataOffset.offset v s = .next (setDataOffset v s) := rfl

theorem writeReg_dataSize (v : Word) (s : State) : writeReg Reg.dataSize.offset v s = .next (setDataSize v s) := rfl

/-- Writes of read-only and reserved offsets have no effect (R162). -/
theorem writeReg_ignored {off : Nat} (hcmd : off ≠ Reg.cmd.offset) (hoffset : off ≠ Reg.dataOffset.offset)
    (hsize : off ≠ Reg.dataSize.offset) (v : Word) (s : State) : writeReg off v s = .next s := by
  unfold writeReg
  split
  · rename_i hreg; exact absurd (regAt_eq_some_iff.1 hreg) hcmd
  · rename_i hreg; exact absurd (regAt_eq_some_iff.1 hreg) hoffset
  · rename_i hreg; exact absurd (regAt_eq_some_iff.1 hreg) hsize
  · rfl

theorem step_busWrite {off : Nat} (h : off ≤ 0xFC) (h4 : off % 4 = 0) (v : Word) (s : State) :
    step (withEvent (.host (busWrite off v)) s) = onNext (respond .written) (writeReg off v s) := by
  rw [step_withEvent, agentStep, hostAccess_busWrite h h4]

/-- A write of a named register (R162). -/
theorem step_write_named (r : Reg) (v : Word) (s : State) :
    step (withEvent (.host (busWrite r.offset v)) s) = onNext (respond .written) (writeReg r.offset v s) := by
  have hle := r.offset_le
  exact step_busWrite (by omega) r.offset_aligned v s

theorem step_write_ignored {off : Nat} (h : off ≤ 0xFC) (h4 : off % 4 = 0) (hcmd : off ≠ Reg.cmd.offset)
    (hoffset : off ≠ Reg.dataOffset.offset) (hsize : off ≠ Reg.dataSize.offset) (v : Word) (s : State) :
    step (withEvent (.host (busWrite off v)) s) = .next (respond .written s) := by
  rw [step_busWrite h h4, writeReg_ignored hcmd hoffset hsize, onNext]

/-- Settles O7: the three registers that a write reaches, and every other offset. -/
theorem registerWritesOfWindow : Obligations.RegisterWritesOfWindow := by
  intro s v
  refine ⟨(step_write_named .cmd v s).trans ?_, step_write_named .dataOffset v s, step_write_named .dataSize v s,
    fun off h h4 hcmd hoffset hsize => step_write_ignored h h4 hcmd hoffset hsize v s⟩
  rw [writeReg_cmd]
  cases executeCmd v s <;> rfl

/-! ### The command in the step of its write -/

theorem takeEvent_withFetchWord (s : State) (w : Word) :
    takeEvent (s.withFetchWord 32 w.toNat) = (.host (cmdWrite w), s) := by
  rw [State.withFetchWord, tableWord_of_toNat, takeEvent_withEvent]

theorem step_of_takeEvent {s s' : State} {e : Event} (h : takeEvent s = (e, s')) : step s = agentStep e s' := by
  rw [step, h]

/-- Settles O5: the write of a word that decodes is exec of its command, answered by the bus. -/
theorem stepRunsDecodedCommand : Obligations.StepRunsDecodedCommand := by
  refine ⟨fun s s' w i hevent hdecode => ?_, takeEvent_withFetchWord⟩
  rw [step_of_takeEvent hevent, agentStep, hostAccess_cmdWrite, executeCmd_ok hdecode]
  cases exec i s' <;> rfl

/-! ### Accesses that are not admitted -/

theorem admitted_eq_false {a : BusAccess} (h : a.width ≠ 32 ∨ a.offset % 4 ≠ 0) : admitted a = false := by
  rcases h with hwidth | haligned
  · simp [admitted, hwidth]
  · simp [admitted, haligned]

/-- Settles O8: BusError inside the window, and no block addressed outside it. -/
theorem unadmittedAccessChangesNothing : Obligations.UnadmittedAccessChangesNothing := fun _ s =>
  ⟨fun hinside h => hostAccess_unadmitted hinside (admitted_eq_false h) s, fun houtside => hostAccess_outside houtside s⟩

/-! ### Who changes CMD_ERR -/

theorem writeReg_cmd_or_cmdErr_eq {off : Nat} {v : Word} {s t : State} (h : writeReg off v s = .next t) :
    off = Reg.cmd.offset ∨ t.cmdErr = s.cmdErr := by
  unfold writeReg at h
  split at h
  · rename_i hreg
    exact .inl (regAt_eq_some_iff.1 hreg)
  all_goals cases h; exact .inr rfl

/-- Of all host accesses only a write to CMD reaches CMD_ERR. -/
theorem hostAccess_cmdWrite_or_cmdErr_eq {a : BusAccess} {s t : State} (h : hostAccess a s = .next t) :
    (∃ w, a = cmdWrite w) ∨ t.cmdErr = s.cmdErr := by
  cases hadmitted : admitted a with
  | false =>
    by_cases hinside : a.offset ≤ 0xFF
    · rw [hostAccess_unadmitted hinside hadmitted] at h
      cases h; exact .inr rfl
    · rw [hostAccess_outside (by omega)] at h
      cases h; exact .inr rfl
  | true =>
    obtain ⟨hbound, haligned, ha | ⟨v, ha⟩⟩ := admitted_cases hadmitted
    · rw [ha, hostAccess_busRead hbound haligned] at h
      cases h; exact .inr rfl
    · rw [ha, hostAccess_busWrite hbound haligned] at h
      obtain ⟨u, hu, rfl⟩ := onNext_next h
      rcases writeReg_cmd_or_cmdErr_eq hu with hoff | hkept
      · rw [hoff] at ha
        exact .inl ⟨v, ha⟩
      · exact .inr hkept

/-- The engine and the source leave CMD_ERR alone. -/
theorem agentStep_cmdErr_eq {e : Event} {s t : State} (hagent : e = .engine ∨ ∃ a, e = .source a)
    (h : agentStep e s = .next t) : t.cmdErr = s.cmdErr := by
  rcases agentStep_decodeEffect hagent h with rfl | heffect
  · rfl
  · obtain ⟨hcmdErr, -⟩ := heffect.sameHostRegisters
    exact hcmdErr

theorem agentStep_cmdErr_change {e : Event} {s t : State} (h : agentStep e s = .next t) (hne : t.cmdErr ≠ s.cmdErr) :
    (∃ w, e = .host (cmdWrite w)) ∨ e = .reset := by
  cases e with
  | host a =>
    rcases hostAccess_cmdWrite_or_cmdErr_eq h with ⟨w, rfl⟩ | hkept
    · exact .inl ⟨w, rfl⟩
    · exact absurd hkept hne
  | engine => exact absurd (agentStep_cmdErr_eq (.inl rfl) h) hne
  | source a => exact absurd (agentStep_cmdErr_eq (.inr ⟨a, rfl⟩) h) hne
  | reset => exact .inr rfl

/-- Settles O38: taking the event leaves CMD_ERR, and the agent that changes it is the host at CMD or reset. -/
theorem cmdErrChangesOnlyByCommands : Obligations.CmdErrChangesOnlyByCommands := by
  intro s t hstep hne
  exact agentStep_cmdErr_change hstep (by rwa [takeEvent_cmdErr])

end Sys2Proof.Machine
end

section
/-! The answers that end a decode in ERROR (60_exceptions.md R182, R184, R185): the zero-length answer and FAULT, and
the sources that may give each (20_memory.md R78). -/

namespace Sys2Proof.Machine

/-! ### Which source may give each answer -/

theorem admitsAnswer_nil_of_past_end {f : List Byte} {s : State} {pos : Nat} (hsource : SourceHolds f s)
    (hend : f.length ≤ pos) (r : Nat) : admitsAnswer s.platform.source pos r (.bytes []) = true := by
  rcases hsource with hfile | hexact
  · simp [hfile, admitsAnswer, hend]
  · simp [hexact, admitsAnswer, hend]

theorem admitsAnswer_nil_iff {f : List Byte} {s : State} {pos r : Nat} (hsource : SourceHolds f s) (hr : 1 ≤ r) :
    admitsAnswer s.platform.source pos r (.bytes []) = true ↔ f.length ≤ pos := by
  refine ⟨fun hadmitted => ?_, fun hend => admitsAnswer_nil_of_past_end hsource hend r⟩
  obtain ⟨-, hempty, -⟩ := admitsAnswer_holds hsource hr hadmitted
  exact hempty.1 rfl

theorem source_ne_free_of_sourceHolds {f : List Byte} {s : State} (hsource : SourceHolds f s) :
    s.platform.source ≠ .free := by
  rcases hsource with hfile | hexact
  · simp [hfile]
  · simp [hexact]

/-- Only a FREE source gives FAULT, so one that holds bytes never does. -/
theorem admitsAnswer_fault_of_sourceHolds {f : List Byte} {s : State} (hsource : SourceHolds f s) (pos r : Nat) :
    admitsAnswer s.platform.source pos r .fault = false :=
  Bool.eq_false_iff.2 fun hadmitted => source_ne_free_of_sourceHolds hsource (admitsAnswer_fault hadmitted)

/-! ### Entry into ERROR -/

theorem outstandingRequest_raiseDecodeError (code : DecErr) (s : State) :
    outstandingRequest (raiseDecodeError code s) = none :=
  (outstandingRequest_eq_none_iff _).2 (.inl (by simp))

theorem step_of_admittedAnswer {s : State} {a : SourceAnswer} (hbusy : s.state = .busy) (hwait : s.phase = .wait)
    (hadmitted : admitsAnswer s.platform.source s.pos.toNat s.reqLen.val a = true) :
    step (withEvent (.source a) s) = .next (srcAnswer a s) := by
  rw [step_withEvent, agentStep, sourceStep_of_admitted hbusy hwait hadmitted]

/-- Settles O23: an admitted answer of either kind is srcAnswer's decode error, and what each source admits. -/
theorem answerErrorsEnterError : Obligations.AnswerErrorsEnterError := by
  intro s hbusy hwait
  refine ⟨fun hadmitted => ?zeroLength, fun hfree => ?fault,
    fun code => outstandingRequest_raiseDecodeError code s, fun hfree => ?freeZeroLength, fun f hsource hreq =>
    ⟨admitsAnswer_nil_iff hsource hreq, admitsAnswer_fault_of_sourceHolds hsource _ _⟩⟩
  case zeroLength => exact step_of_admittedAnswer hbusy hwait hadmitted
  case fault => exact step_of_admittedAnswer hbusy hwait (by rw [hfree]; rfl)
  case freeZeroLength => rw [hfree, admitsAnswer_free_iff]; exact Nat.zero_le _

end Sys2Proof.Machine
end

section
/-! Reset, and what is left of a decode (70_reset_and_hazards.md R210, R218, R222): an event whose step is not enabled
changes nothing, and each enabled step of the engine or the source brings the decode nearer to its end. -/

namespace Sys2Proof.Machine

/-! ### The reset input -/

/-- Settles O28: the reset event runs resetBlock, which is R39's record with the model's own fields put back. -/
theorem resetInputFromEveryState : Obligations.ResetInputFromEveryState := by
  intro s
  rw [step_withEvent, agentStep, resetBlock]

/-! ### Steps that are not enabled -/

theorem engineStep_of_not_busy {s : State} (h : s.state ≠ .busy) : engineStep s = .next s := by
  rw [engineStep, if_neg (by simp [issueEnabled_iff, h]), if_neg (by simp [convertEnabled_iff, h])]

theorem answerEnabled_eq_false {s : State} (h : s.state ≠ .busy ∨ s.phase ≠ .wait) : answerEnabled s = false := by
  rw [Bool.eq_false_iff, ne_eq, answerEnabled_iff]
  tauto

theorem sourceStep_of_not_admitted {a : SourceAnswer} {s : State}
    (h : admitsAnswer s.platform.source s.pos.toNat s.reqLen.val a = false) : sourceStep a s = .next s := by
  rw [sourceStep, h, Bool.and_false, if_neg Bool.false_ne_true]

/-- Settles O25: a case for each ground on which the engine's or the source's step is not enabled. -/
theorem disabledAgentsChangeNothing : Obligations.DisabledAgentsChangeNothing := by
  intro s a
  rw [step_withEvent, step_withEvent, agentStep, agentStep]
  refine ⟨fun hengine => ?engine, fun hsource => ?source⟩
  case engine =>
    rcases hengine with hidle | hwait
    · exact engineStep_of_not_busy hidle
    · exact engineStep_of_wait hwait
  case source =>
    rcases hsource with hidle | hphase | hrefused
    · exact sourceStep_of_not_enabled (answerEnabled_eq_false (.inl hidle))
    · exact sourceStep_of_not_enabled (answerEnabled_eq_false (.inr hphase))
    · exact sourceStep_of_not_admitted hrefused

/-! ### Steps that are enabled -/

theorem engIssue_decodeEffect {s : State} (henabled : issueEnabled s = true) : DecodeEffect s (engIssue s) := by
  by_cases hall : s.produced = s.length
  · rw [engIssue_of_complete hall]
    exact .finished henabled hall
  · rw [engIssue_of_more hall]
    exact .issued henabled hall

theorem engConvert_decodeEffect {s t : State} (henabled : convertEnabled s = true) (h : engConvert s = .next t) :
    DecodeEffect s t := by
  obtain ⟨b, hindex, hb, hslot, rfl⟩ := engConvert_next h
  exact .converted henabled b hindex hb hslot

theorem srcAnswer_decodeEffect {a : SourceAnswer} {s : State} (henabled : answerEnabled s = true)
    (hadmitted : admitsAnswer s.platform.source s.pos.toNat s.reqLen.val a = true) :
    DecodeEffect s (srcAnswer a s) := by
  cases a with
  | fault => exact .failed henabled _ (.inr ⟨rfl, admitsAnswer_fault hadmitted⟩)
  | bytes bs =>
    by_cases hempty : bs = []
    · subst hempty
      exact .failed henabled _ (.inl ⟨rfl, hadmitted⟩)
    · rw [srcAnswer_of_nonempty hempty]
      exact .answered henabled bs hempty hadmitted

/-- In BUSY outside WAIT the engine does take a step of the decode. -/
theorem engineStep_decodeEffect {s t : State} (hbusy : s.state = .busy) (hphase : s.phase ≠ .wait)
    (h : engineStep s = .next t) : DecodeEffect s t := by
  cases hp : s.phase with
  | issue =>
    rw [engineStep_of_issue hbusy hp] at h
    cases h
    exact engIssue_decodeEffect ((issueEnabled_iff s).2 ⟨hbusy, hp⟩)
  | wait => exact absurd hp hphase
  | convert =>
    rw [engineStep_of_convert hbusy hp] at h
    exact engConvert_decodeEffect ((convertEnabled_iff s).2 ⟨hbusy, hp⟩) h

/-- In BUSY and WAIT an admitted answer is a step of the decode. -/
theorem sourceStep_decodeEffect {a : SourceAnswer} {s t : State} (hbusy : s.state = .busy) (hwait : s.phase = .wait)
    (hadmitted : admitsAnswer s.platform.source s.pos.toNat s.reqLen.val a = true) (h : sourceStep a s = .next t) :
    DecodeEffect s t := by
  rw [sourceStep_of_admitted hbusy hwait hadmitted] at h
  cases h
  exact srcAnswer_decodeEffect ((answerEnabled_iff s).2 ⟨hbusy, hwait⟩) hadmitted

/-! ### What is left of a decode, by phase -/

theorem stepsLeft_of_issue {s : State} (hbusy : s.state = .busy) (hissue : s.phase = .issue) :
    stepsLeft s = 3 * (s.length.toNat - s.produced.toNat) + 1 := by
  simp [stepsLeft, hbusy, hissue]

theorem stepsLeft_of_wait {s : State} (hbusy : s.state = .busy) (hwait : s.phase = .wait) :
    stepsLeft s = 3 * (s.length.toNat - s.produced.toNat) := by
  simp [stepsLeft, hbusy, hwait]

theorem stepsLeft_of_convert {s : State} (hbusy : s.state = .busy) (hconvert : s.phase = .convert) :
    stepsLeft s = 3 * (s.length.toNat - s.produced.toNat) - 1 := by
  simp [stepsLeft, hbusy, hconvert]

theorem stepsLeft_le_of_busy {s : State} (hbusy : s.state = .busy) :
    stepsLeft s ≤ 3 * (s.length.toNat - s.produced.toNat) + 1 := by
  cases hphase : s.phase with
  | issue => rw [stepsLeft_of_issue hbusy hphase]
  | wait => rw [stepsLeft_of_wait hbusy hphase]; omega
  | convert => rw [stepsLeft_of_convert hbusy hphase]; omega

theorem stepsLeft_congr {s t : State} (h : engineView t = engineView s) : stepsLeft t = stepsLeft s :=
  (congrArg stepsLeft h :)

/-! ### What each step of a decode takes off it -/

theorem stepsLeft_issueRequest {s : State} (r : ChunkCount) (hbusy : s.state = .busy) (hissue : s.phase = .issue) :
    stepsLeft (issueRequest r s) + 1 = stepsLeft s := by
  rw [stepsLeft_of_wait (s := issueRequest r s) hbusy rfl, stepsLeft_of_issue hbusy hissue, issueRequest_length,
    issueRequest_produced]

/-- A request is outstanding only where a sample is missing, so an answer taken lowers what is left. -/
theorem stepsLeft_takeAnswer {s : State} (bs : List Byte) (h : EngineInv s) (hbusy : s.state = .busy)
    (hwait : s.phase = .wait) : stepsLeft (takeAnswer bs s) + 1 = stepsLeft s := by
  obtain ⟨hone, hroom⟩ := h.wait_request hbusy hwait
  rw [stepsLeft_of_convert (s := takeAnswer bs s) hbusy rfl, stepsLeft_of_wait hbusy hwait, takeAnswer_length,
    takeAnswer_produced]
  omega

/-- A sample less to produce takes three off; where the chunk is used up, the next ENG_ISSUE puts two back. -/
theorem stepsLeft_advanceConvert_lt {s : State} (m : List (Nat × Sample)) (h : EngineInv s) (hbusy : s.state = .busy)
    (hconvert : s.phase = .convert) : stepsLeft (advanceConvert m s) < stepsLeft s := by
  obtain ⟨hindex, -⟩ := h.convert_index hbusy hconvert
  have hroom := h.convert_room hbusy hconvert
  have hproduced := advanceConvert_produced_toNat h hbusy hconvert m
  rw [stepsLeft_of_convert hbusy hconvert]
  by_cases hlast : s.chunkIdx.val + 1 = s.chunkLen.val
  · rw [stepsLeft_of_issue (s := advanceConvert m s) hbusy (by simp [hlast]), advanceConvert_length, hproduced]
    omega
  · rw [stepsLeft_of_convert (s := advanceConvert m s) hbusy (by simp [hlast, hconvert]), advanceConvert_length,
      hproduced]
    omega

/-- Every step of a decode ends it or lowers what is left of it. -/
theorem DecodeEffect.progress {s t : State} (effect : DecodeEffect s t) (h : EngineInv s) :
    t.state ≠ .busy ∨ stepsLeft t < stepsLeft s := by
  cases effect with
  | finished enabled all => exact .inl (by simp)
  | issued enabled more =>
    obtain ⟨hbusy, hissue⟩ := (issueEnabled_iff s).1 enabled
    exact .inr (Nat.lt_of_succ_le (stepsLeft_issueRequest _ hbusy hissue).le)
  | failed enabled code why => exact .inl (by simp)
  | answered enabled bs nonempty admitted =>
    obtain ⟨hbusy, hwait⟩ := (answerEnabled_iff s).1 enabled
    exact .inr (Nat.lt_of_succ_le (stepsLeft_takeAnswer bs h hbusy hwait).le)
  | converted enabled b index value slot =>
    obtain ⟨hbusy, hconvert⟩ := (convertEnabled_iff s).1 enabled
    exact .inr (stepsLeft_advanceConvert_lt _ h hbusy hconvert)

/-- Settles O40: an enabled event is a step of the decode, and each of those makes progress; the state that has taken
the event has as much left as the state before it. -/
theorem enabledStepsMakeProgress : Obligations.EnabledStepsMakeProgress := by
  intro s t hinv hbusy hstep
  have htaken : stepsLeft (takeEvent s).2 = stepsLeft s := stepsLeft_congr (engineView_takeEvent s)
  have htakenBusy : (takeEvent s).2.state = .busy := by rwa [takeEvent_state]
  refine ⟨fun henabled => ?progress, fun ⟨a, hhost⟩ => ?host, ?bound⟩
  case progress =>
    have heffect : DecodeEffect (takeEvent s).2 t := by
      rcases henabled with ⟨hengine, hphase⟩ | ⟨a, hsource, hwait, hadmitted⟩
      · rw [step, hengine] at hstep
        exact engineStep_decodeEffect htakenBusy (by rwa [takeEvent_phase]) hstep
      · rw [step, hsource] at hstep
        exact sourceStep_decodeEffect htakenBusy (by rwa [takeEvent_phase])
          (by rwa [takeEvent_platform, takeEvent_pos, takeEvent_reqLen]) hstep
    rw [← htaken]
    exact heffect.progress (engineInv_takeEvent hinv)
  case host =>
    have heffect := step_eventEffect hstep
    rw [hhost] at heffect
    rw [stepsLeft_congr (heffect.engineView_of_host htakenBusy), htaken]
  case bound =>
    have hle := stepsLeft_le_of_busy hbusy
    omega

end Sys2Proof.Machine
end

section
/-! The decoding vectors of 95_test_vectors.md 2.2. The legal words are encodings, read back by R99; each illegal word
shows the field that refuses it: bits 23:8 under opcode 0x01, bits 23:0 under 0x02 (R97), the opcode itself (R96). -/

namespace Sys2Proof

/-- Settles O2: the legal words by the decoder's inverse, the illegal ones by their opcode and reserved field. -/
theorem sampleWordsDecode : Obligations.SampleWordsDecode := by
  refine ⟨?lookup, ?decode, ?pcmRead, ?lookupReserved, ?decodeReserved, ?badOpcode⟩
  case lookup => exact (decodeEncodeExact _ (.lookup 0xFF)).2 (by decide)
  case decode => exact (decodeEncodeExact _ .decode).2 (by decide)
  case pcmRead => exact (decodeEncodeExact _ (.pcmRead 0xFFFFFF)).2 (by decide)
  case lookupReserved => exact decodeCmd_of_reserved (.inl ⟨by decide, by decide⟩)
  case decodeReserved => exact decodeCmd_of_reserved (.inr ⟨by decide, by decide⟩)
  case badOpcode => exact decodeCmd_of_opcode_other (by decide) (by decide) (by decide)

end Sys2Proof
end
